-- ==== Sys2Proof/Word.lean ====
section
/-! DEFINITION. The word types of the display window clipper (spec/00_scope.md R14, spec/10_state.md R48). -/

namespace Sys2Proof

/-- One byte: of asset memory, of the fixed-font ROM, of a bus transaction. -/
abbrev Byte := BitVec 8

/-- A packed 5/6/5 colour, red in bits 15:11, green in 10:5, blue in 4:0 (R48). Everywhere but in
PACK_RGB a colour is 16 opaque bits. -/
abbrev Colour := BitVec 16

/-- A 16-bit operand slot, coordinate register, font reference or asset address (R14). -/
abbrev Half := BitVec 16

/-- One command: a 128-bit word, bit 127 the most significant (spec/30_encoding.md R90). -/
abbrev CommandWord := BitVec 128

end Sys2Proof
end

