-- ==== Sys2Proof/Syntax.lean ====
section
/-! DEFINITION. The 22 commands of spec/30_encoding.md R96, one constructor per row of
spec/opcode_table.json. Operands stand in slot order and have the width of the bits that carry their
value (R92): a `s16` or `u16` operand is 16 bits, a `u8` operand 8, a `u2` operand 2. Whether 16 bits
are read as signed is said by the command's meaning, through Machine/Operands.lean. -/

namespace Sys2Proof

/-- A command of the display window clipper (R96). -/
inductive Instr where
  /-- NOP (R270). -/
  | nop
  /-- SET_ROTATION r (R130). -/
  | setRotation (r : BitVec 2)
  /-- PACK_RGB r, g, b (R272). -/
  | packRgb (r g b : Byte)
  /-- DRAW_PIXEL x, y, color (R142). -/
  | drawPixel (x y : Half) (color : Colour)
  /-- DRAW_LINE x0, y0, x1, y1, color (R146). -/
  | drawLine (x0 y0 x1 y1 : Half) (color : Colour)
  /-- DRAW_RECT x, y, w, h, color (R149). -/
  | drawRect (x y w h : Half) (color : Colour)
  /-- FILL_RECT x, y, w, h, color (R151). -/
  | fillRect (x y w h : Half) (color : Colour)
  /-- DRAW_CIRCLE x0, y0, r, color (R154). -/
  | drawCircle (x0 y0 r : Half) (color : Colour)
  /-- FILL_CIRCLE x0, y0, r, color (R158). -/
  | fillCircle (x0 y0 r : Half) (color : Colour)
  /-- DRAW_BITMAP x, y, addr, w, h, color (R205). -/
  | drawBitmap (x y addr w h : Half) (color : Colour)
  /-- DRAW_BITMAP_BG x, y, addr, w, h, color, bg (R206). -/
  | drawBitmapBg (x y addr w h : Half) (color bg : Colour)
  /-- SET_CURSOR x, y (R225). -/
  | setCursor (x y : Half)
  /-- SET_TEXT_COLOR fg (R226). -/
  | setTextColor (fg : Colour)
  /-- SET_TEXT_COLOR_BG fg, bg (R227). -/
  | setTextColorBg (fg bg : Colour)
  /-- SET_TEXT_SIZE s (R228). -/
  | setTextSize (size : Byte)
  /-- SET_TEXT_DATUM d (R229). -/
  | setTextDatum (d : Byte)
  /-- SET_FREE_FONT font (R230). -/
  | setFreeFont (font : Half)
  /-- SET_FONT_SLOT k, font (R232). -/
  | setFontSlot (k : Byte) (font : Half)
  /-- PRINT addr, len (R236). -/
  | print (addr : Half) (len : Byte)
  /-- PRINTLN addr, len (R238). -/
  | println (addr : Half) (len : Byte)
  /-- DRAW_STRING addr, len, x, y, sel (R254). -/
  | drawString (addr : Half) (len : Byte) (x y sel : Half)
  /-- DRAW_CENTRE_STRING addr, len, x, y, sel (R258). -/
  | drawCentreString (addr : Half) (len : Byte) (x y sel : Half)
deriving DecidableEq, Repr

end Sys2Proof
end

