-- ==== Sys2Proof/WellFormed.lean ====
section
/-! DEFINITION. Which command words an assembler writes.

EVERY term of `Instr` is well-formed: "Operand values never make a command illegal"
(spec/30_encoding.md R99), and an operand's type has exactly the bits that carry its value, so an
ill-formed operand cannot be built. What can be ill-formed is a WORD: the engine accepts any value in
the bits a command does not use, but "an assembler writes them as zero" (R93). `CommandWord.wf` is that
check: the opcode is assigned, the slots respect their kinds, the unused slots and `Z` are zero. -/

namespace Sys2Proof

/-- How a slot carries its operand (R92). -/
inductive SlotKind where
  /-- The whole slot, signed or unsigned (`s16`, `u16`). -/
  | whole
  /-- `slot[7:0]` (`u8`). -/
  | low8
  /-- `slot[1:0]` (`u2`). -/
  | low2
  /-- The command does not use the slot (R93). -/
  | unused
deriving DecidableEq, Repr

namespace CommandWord

/-- Bits 127:120, the opcode (R91). -/
def op (cw : CommandWord) : Byte := cw.extractLsb' 120 8

/-- Slot number 0 is `A` (bits 119:104), ..., slot number 6 is `G` (bits 23:8) (R91). -/
def slot (cw : CommandWord) (n : Nat) : Half := cw.extractLsb' (104 - 16 * n) 16

/-- Bits 7:0, reserved and ignored (R91). -/
def z (cw : CommandWord) : Byte := cw.extractLsb' 0 8

/-- The slot kinds of an opcode, from slot `A` onward; a reserved opcode has none (R96, R98). -/
def kinds (op : Byte) : Option (List SlotKind) :=
  match op.toNat with
  | 0x00 => some []
  | 0x01 => some [.low2]
  | 0x02 => some [.low8, .low8, .low8]
  | 0x10 => some [.whole, .whole, .whole]
  | 0x11 => some [.whole, .whole, .whole, .whole, .whole]
  | 0x12 => some [.whole, .whole, .whole, .whole, .whole]
  | 0x13 => some [.whole, .whole, .whole, .whole, .whole]
  | 0x14 => some [.whole, .whole, .whole, .whole]
  | 0x15 => some [.whole, .whole, .whole, .whole]
  | 0x18 => some [.whole, .whole, .whole, .whole, .whole, .whole]
  | 0x19 => some [.whole, .whole, .whole, .whole, .whole, .whole, .whole]
  | 0x20 => some [.whole, .whole]
  | 0x21 => some [.whole]
  | 0x22 => some [.whole, .whole]
  | 0x23 => some [.low8]
  | 0x24 => some [.low8]
  | 0x25 => some [.whole]
  | 0x26 => some [.low8, .whole]
  | 0x28 => some [.whole, .low8]
  | 0x29 => some [.whole, .low8]
  | 0x2A => some [.whole, .low8, .whole, .whole, .whole]
  | 0x2B => some [.whole, .low8, .whole, .whole, .whole]
  | _ => none

/-- The bits of a slot that its kind ignores are zero (R92, R93). -/
def slotWf (k : SlotKind) (v : Half) : Bool :=
  match k with
  | .whole => true
  | .low8 => v.toNat < 256
  | .low2 => v.toNat < 4
  | .unused => v.toNat == 0

/-- The value that a slot carries into a command, the ignored bits dropped (R92, R93). -/
def carried (k : SlotKind) (v : Half) : Nat :=
  match k with
  | .whole => v.toNat
  | .low8 => v.toNat % 256
  | .low2 => v.toNat % 4
  | .unused => 0

/-- The kind of slot `n` in a word; every slot of a reserved word is unused (R93, R98). -/
def kindOf (cw : CommandWord) (n : Nat) : SlotKind := ((kinds (op cw)).getD []).getD n .unused

/-- The word an assembler writes: assigned opcode, every ignored bit zero (R93, R96). -/
def wf (cw : CommandWord) : Bool :=
  match kinds (op cw) with
  | none => false
  | some ks =>
    (List.range 7).all (fun n => slotWf (ks.getD n .unused) (slot cw n)) && z cw == 0#8

end CommandWord
end Sys2Proof
end

