-- ==== Sys2Proof/Decode.lean ====
section
/-! DEFINITION. Decoding and encoding of command words (spec/30_encoding.md R90 to R100). -/

namespace Sys2Proof

/-- Why a word or a byte string is no command of R96. -/
inductive DecodeError where
  /-- The opcode is not in the table (R98). The engine completes such a word as a no-operation. -/
  | reservedOpcode (op : Byte)
  /-- Fewer than 16 bytes of a command word on a byte channel (R95). -/
  | shortWord (count : Nat)
deriving DecidableEq, Repr

/-- A `u16` or `s16` operand of slot `n` (R92). -/
def field16 (cw : CommandWord) (n : Nat) : Half := CommandWord.slot cw n

/-- A `u8` operand of slot `n`: `slot[7:0]` (R92). -/
def field8 (cw : CommandWord) (n : Nat) : Byte := (CommandWord.slot cw n).setWidth 8

/-- A `u2` operand of slot `n`: `slot[1:0]` (R92). -/
def field2 (cw : CommandWord) (n : Nat) : BitVec 2 := (CommandWord.slot cw n).setWidth 2

/-- The decoding procedure, total on all words (R100). -/
def decode (cw : CommandWord) : Except DecodeError Instr :=
  match (CommandWord.op cw).toNat with
  | 0x00 => .ok .nop
  | 0x01 => .ok (.setRotation (field2 cw 0))
  | 0x02 => .ok (.packRgb (field8 cw 0) (field8 cw 1) (field8 cw 2))
  | 0x10 => .ok (.drawPixel (field16 cw 0) (field16 cw 1) (field16 cw 2))
  | 0x11 => .ok (.drawLine (field16 cw 0) (field16 cw 1) (field16 cw 2) (field16 cw 3) (field16 cw 4))
  | 0x12 => .ok (.drawRect (field16 cw 0) (field16 cw 1) (field16 cw 2) (field16 cw 3) (field16 cw 4))
  | 0x13 => .ok (.fillRect (field16 cw 0) (field16 cw 1) (field16 cw 2) (field16 cw 3) (field16 cw 4))
  | 0x14 => .ok (.drawCircle (field16 cw 0) (field16 cw 1) (field16 cw 2) (field16 cw 3))
  | 0x15 => .ok (.fillCircle (field16 cw 0) (field16 cw 1) (field16 cw 2) (field16 cw 3))
  | 0x18 => .ok (.drawBitmap (field16 cw 0) (field16 cw 1) (field16 cw 2) (field16 cw 3) (field16 cw 4)
      (field16 cw 5))
  | 0x19 => .ok (.drawBitmapBg (field16 cw 0) (field16 cw 1) (field16 cw 2) (field16 cw 3)
      (field16 cw 4) (field16 cw 5) (field16 cw 6))
  | 0x20 => .ok (.setCursor (field16 cw 0) (field16 cw 1))
  | 0x21 => .ok (.setTextColor (field16 cw 0))
  | 0x22 => .ok (.setTextColorBg (field16 cw 0) (field16 cw 1))
  | 0x23 => .ok (.setTextSize (field8 cw 0))
  | 0x24 => .ok (.setTextDatum (field8 cw 0))
  | 0x25 => .ok (.setFreeFont (field16 cw 0))
  | 0x26 => .ok (.setFontSlot (field8 cw 0) (field16 cw 1))
  | 0x28 => .ok (.print (field16 cw 0) (field8 cw 1))
  | 0x29 => .ok (.println (field16 cw 0) (field8 cw 1))
  | 0x2A => .ok (.drawString (field16 cw 0) (field8 cw 1) (field16 cw 2) (field16 cw 3) (field16 cw 4))
  | 0x2B => .ok (.drawCentreString (field16 cw 0) (field8 cw 1) (field16 cw 2) (field16 cw 3)
      (field16 cw 4))
  | _ => .error (.reservedOpcode (CommandWord.op cw))

/-- The word made of 16 bytes, bits 127:120 first (R95). -/
def wordOfBytes (bs : List Byte) : CommandWord :=
  bs.foldl (fun w b => (w <<< (8 : Nat)) ||| b.setWidth 128) 0#128

/-- Decoding from a byte channel: the first 16 bytes are one word, the rest is left (R95). -/
def decodeBytes (bs : List Byte) : Except DecodeError (Instr × List Byte) :=
  if bs.length < 16 then .error (.shortWord bs.length)
  else match decode (wordOfBytes (bs.take 16)) with
    | .ok i => .ok (i, bs.drop 16)
    | .error e => .error e

/-- A word from its opcode and its seven slots, `Z` zero (R91, R93). -/
def pack (op : Byte) (a b c d e f g : Half) : CommandWord :=
  op ++ a ++ b ++ c ++ d ++ e ++ f ++ g ++ 0#8

/-- An 8-bit operand in its slot, the ignored bits zero (R92, R93). -/
def slot8 (v : Byte) : Half := v.setWidth 16

/-- A 2-bit operand in its slot, the ignored bits zero (R92, R93). -/
def slot2 (v : BitVec 2) : Half := v.setWidth 16

/-- The word of a command as an assembler writes it: unused slots and bits zero (R93, R96). -/
def encode (i : Instr) : CommandWord :=
  match i with
  | .nop => pack 0x00#8 0 0 0 0 0 0 0
  | .setRotation r => pack 0x01#8 (slot2 r) 0 0 0 0 0 0
  | .packRgb r g b => pack 0x02#8 (slot8 r) (slot8 g) (slot8 b) 0 0 0 0
  | .drawPixel x y color => pack 0x10#8 x y color 0 0 0 0
  | .drawLine x0 y0 x1 y1 color => pack 0x11#8 x0 y0 x1 y1 color 0 0
  | .drawRect x y w h color => pack 0x12#8 x y w h color 0 0
  | .fillRect x y w h color => pack 0x13#8 x y w h color 0 0
  | .drawCircle x0 y0 r color => pack 0x14#8 x0 y0 r color 0 0 0
  | .fillCircle x0 y0 r color => pack 0x15#8 x0 y0 r color 0 0 0
  | .drawBitmap x y addr w h color => pack 0x18#8 x y addr w h color 0
  | .drawBitmapBg x y addr w h color bg => pack 0x19#8 x y addr w h color bg
  | .setCursor x y => pack 0x20#8 x y 0 0 0 0 0
  | .setTextColor fg => pack 0x21#8 fg 0 0 0 0 0 0
  | .setTextColorBg fg bg => pack 0x22#8 fg bg 0 0 0 0 0
  | .setTextSize size => pack 0x23#8 (slot8 size) 0 0 0 0 0 0
  | .setTextDatum d => pack 0x24#8 (slot8 d) 0 0 0 0 0 0
  | .setFreeFont font => pack 0x25#8 font 0 0 0 0 0 0
  | .setFontSlot k font => pack 0x26#8 (slot8 k) font 0 0 0 0 0
  | .print addr len => pack 0x28#8 addr (slot8 len) 0 0 0 0 0
  | .println addr len => pack 0x29#8 addr (slot8 len) 0 0 0 0 0
  | .drawString addr len x y sel => pack 0x2A#8 addr (slot8 len) x y sel 0 0
  | .drawCentreString addr len x y sel => pack 0x2B#8 addr (slot8 len) x y sel 0 0

/-- The 16 bytes of a word on a byte channel, bits 127:120 first (R95). -/
def bytesOfWord (cw : CommandWord) : List Byte :=
  (List.range 16).map (fun n => cw.extractLsb' (120 - 8 * n) 8)

/-- The word whose low `nbits` bits are `w`, every bit above them zero. The hardware's one word is 128
bits wide, so bit `k` of the number is bit `k` of the word (R90). -/
def tableWord (nbits w : Nat) : CommandWord := BitVec.ofNat 128 (w % 2 ^ nbits)

/-- The command this decoder reads from a word numbered as spec/opcode_table.json numbers it; `none`
for a reserved opcode. -/
def decodeTableWord (nbits w : Nat) : Option Instr :=
  match decode (tableWord nbits w) with
  | .ok i => some i
  | .error _ => none

end Sys2Proof
end

