-- ==== Sys2Proof/Config.lean ====
section
/-! DEFINITION. What the spec leaves to an implementation, and the values it leaves open.
The implementation parameters of spec/00_scope.md R10 to R16 are ONE record, `Params`, which a state
carries unchanged (notes/assumptions/1.md). A parameter without a default, and every unspecified
value, is an `opaque` constant with no body: nothing can be proved of which value it is. -/

namespace Sys2Proof

/-- The implementation parameters (spec/00_scope.md R10, R12, R13, R15, R16). Constraints that the spec
puts on a parameter are built into its type where that is possible: `CHUNK_BYTES` is positive and even
for every `chunkPairs`, and the swap bit of `ORIENT` is the parity of the rotation. -/
structure Params where
  /-- `CMD_CASET`, the column-address-set command byte (R13). -/
  cmdCaset : Byte
  /-- `CMD_PASET`, the row-address-set command byte (R13). -/
  cmdPaset : Byte
  /-- `CMD_RAMWR`, the memory-write command byte (R13). -/
  cmdRamwr : Byte
  /-- `CMD_MADCTL`, the memory-access-control command byte (R13). -/
  cmdMadctl : Byte
  /-- `MADCTL_DATA[0..3]`, one data byte per rotation (R13). -/
  madctlData : Vector Byte 4
  /-- `FIXED_FONT_ROM`, 95 glyphs of 5 column bytes (R10). -/
  fixedFontRom : Vector Byte 475
  /-- `CHUNK_BYTES` is `2 * (chunkPairs + 1)`: any positive even number (R12). -/
  chunkPairs : Nat
  /-- `FIXED_MIDDLE_SIGN` is -1 when this is true, +1 otherwise (R15). -/
  fixedMiddleNegative : Bool
  /-- `ORIENT[r]` without its swap bit: (mirror_x, mirror_y) of rotation `r` (R16). -/
  orientMirrors : Vector (Bool × Bool) 4
deriving DecidableEq, Repr

namespace Machine

/-- A call of the layer below: every drawing reaches the bus through one of these two (spec/41_primitives.md R143). -/
inductive Request where
  /-- `pixel(x, y, c)` (R140). -/
  | pixel (x y : Int) (c : Colour)
  /-- `fill(x, y, w, h, c)` (spec/42_block_fill.md R170). -/
  | fill (x y : Int) (w h : Nat) (c : Colour)
deriving DecidableEq, Repr

end Machine

namespace Config

/-- `FIXED_FONT_ROM`: open, no default (R10, spec/92_eei_decisions.md D22). -/
opaque fixedFontRom : Vector Byte 475

/-- Half of `CHUNK_BYTES`, less one: open, no default (R12, D14). -/
opaque chunkPairs : Nat

/-- `MADCTL_DATA`: open, no default (R13, D10). -/
opaque madctlData : Vector Byte 4

/-- FREE VALUE: the byte of asset memory at an address that the host never wrote
(spec/20_memory.md R51, spec/93_implementation_defined.md U3). The same byte at every read. -/
opaque unwrittenAsset : Nat → Byte

/-- FREE VALUE: the initial contents of the controller's frame memory, by cell number
(spec/20_memory.md R70). -/
opaque unwrittenPixel : Nat → Colour

/-- FREE VALUE: what the read port returns for a register of its map other than STATUS while BUSY is 1
(spec/10_state.md R42, U6), a new one at every read. -/
opaque busyRead : Nat → BitVec 32

/-- FREE VALUE: the drawing calls that a command goes on to make after the host has rewritten asset memory
that it reads (spec/70_reset_and_hazards.md R308, U5). -/
opaque tornCalls : Nat → List Machine.Request

/-- FREE VALUE: `RESULT` of a string command whose asset memory was rewritten while it ran (U5). -/
opaque tornResult : Nat → Nat

/-- FREE VALUE: `CURSOR_X` after a PRINT whose asset memory was rewritten while it ran (R308). -/
opaque tornCursorX : Nat → Half

/-- FREE VALUE: `CURSOR_Y` after a PRINT or a PRINTLN whose asset memory was rewritten while it ran (R308). -/
opaque tornCursorY : Nat → Half

/-- FREE VALUE: the command word that the engine gets when the host changes the word it drives in the cycle in
which it is accepted (spec/70_reset_and_hazards.md R307, U8). -/
opaque changedWord : Nat → CommandWord

/-- FREE VALUE: byte `i` of the chunk buffer after the `n`-th reset (spec/10_state.md R37, U2). -/
opaque chunkAfterReset : Nat → Nat → Byte

/-- FREE VALUE: the controller's column range and row range before its first window command, by index:
xs, xe, ys, ye (spec/20_memory.md R70). -/
opaque initialRange : Nat → Half

/-- The parameters of the machine: the spec's default where it gives one (the four command bytes R13,
`FIXED_MIDDLE_SIGN` R15, `ORIENT` spec/20_memory.md R75), an open constant where it gives none. -/
def params : Params where
  cmdCaset := 0x2A#8
  cmdPaset := 0x2B#8
  cmdRamwr := 0x2C#8
  cmdMadctl := 0x36#8
  madctlData := madctlData
  fixedFontRom := fixedFontRom
  chunkPairs := chunkPairs
  fixedMiddleNegative := false
  orientMirrors := #v[(false, false), (true, false), (true, true), (false, true)]

end Config
end Sys2Proof
end

