-- ==== Sys2Proof/Machine/State.lean ====
section
/-! DEFINITION. The state of the machine as plain data, and the machine after reset.
Three agents share it (spec/00_scope.md R8): the engine (registers, chunk buffer, the transactions the
running command has still to emit), the host (the command port, asset memory, what the host does next,
what it last read) and the bus adapter with the display controller behind it (the bus stream, the
reference sink). -/

namespace Sys2Proof.Machine

/-- A transaction: one call of the bus adapter (spec/20_memory.md R56). -/
inductive Txn where
  /-- `sendCommand` with a byte. -/
  | cmd (b : Byte)
  /-- `sendData` with a byte. -/
  | d8 (b : Byte)
  /-- `sendData` with a 16-bit word. -/
  | d16 (w : BitVec 16)
  /-- `sendData` with a 32-bit double word. -/
  | d32 (d : BitVec 32)
  /-- `sendBytes` with the first bytes of the chunk buffer. -/
  | buf (bs : List Byte)
deriving DecidableEq, Repr

/-- The tag of a byte of the wire trace (R58). -/
inductive Tag where
  /-- A command byte, `C`. -/
  | c
  /-- A data byte, `D`. -/
  | d
deriving DecidableEq, Repr

/-- What the outside world does at the engine's interface. -/
inductive Input where
  /-- The host drives a word on the command port with valid, and is to hold it until it is accepted
  (spec/30_encoding.md R94). -/
  | present (cw : CommandWord)
  /-- The host drives another word, and, if the engine accepts now, in the very cycle of the acceptance
  (spec/70_reset_and_hazards.md R307, U8). -/
  | changeWord (cw : CommandWord)
  /-- The host writes a byte of asset memory through its own port (spec/20_memory.md R51). -/
  | assetWrite (addr : Half) (b : Byte)
  /-- The host reads a register through the read port (spec/10_state.md R42). -/
  | readRegister (number : Byte)
  /-- The adapter puts the next byte of the transaction it is offered on the wire: how far it has got is
  "the adapter's business" (spec/20_memory.md R83). -/
  | adapterTransfers
  /-- The adapter completes the transaction it is offered (spec/20_memory.md R60). An adapter that never
  does so leaves the engine stuck with BUSY = 1 (R62). -/
  | adapterAccepts
  /-- The reset input is asserted (spec/70_reset_and_hazards.md R300). -/
  | reset
deriving DecidableEq, Repr

/-- The architectural registers of the engine (spec/10_state.md R23 to R35); `BUSY` stands beside them in
`State`. -/
structure Registers where
  /-- `ROTATION` (R23). -/
  rotation : BitVec 2
  /-- `WIDTH` (R24). -/
  width : Half
  /-- `HEIGHT` (R24). -/
  height : Half
  /-- `CURSOR_X`, a signed register (R26). -/
  cursorX : Half
  /-- `CURSOR_Y`, a signed register (R26). -/
  cursorY : Half
  /-- `TEXT_FG` (R27). -/
  textFg : Colour
  /-- `TEXT_BG` (R27). -/
  textBg : Colour
  /-- `USE_BG` (R28). -/
  useBg : Bool
  /-- `TEXT_SIZE`, unsigned, 1..255 in every reachable state (R29). -/
  textSize : Byte
  /-- `DATUM` (R30). -/
  datum : Byte
  /-- `ACTIVE_FONT`, 0 for the fixed font (R32). -/
  activeFont : Half
  /-- `SLOT[2]` (R33). -/
  slot2 : Half
  /-- `SLOT[3]` (R33). -/
  slot3 : Half
  /-- `SLOT[4]` (R33). -/
  slot4 : Half
  /-- `SLOT[5]` (R33). -/
  slot5 : Half
  /-- `RESULT` (R35). -/
  result : BitVec 32
deriving DecidableEq, Repr

/-- Which command's data bytes the controller is collecting (spec/20_memory.md R71, R76). -/
inductive SinkCommand where
  /-- None. -/
  | idle
  /-- Column-address-set, four data bytes. -/
  | columns
  /-- Row-address-set, four data bytes. -/
  | rows
  /-- Memory-access-control, one data byte. -/
  | access
deriving DecidableEq, Repr

/-- The display controller as a reference sink (spec/20_memory.md R70). -/
structure Sink where
  /-- Column range start. -/
  xs : Half
  /-- Column range end. -/
  xe : Half
  /-- Row range start. -/
  ys : Half
  /-- Row range end. -/
  ye : Half
  /-- Write pointer, column. -/
  px : Nat
  /-- Write pointer, row; past `ye` when the window is full (R73). -/
  py : Nat
  /-- A pixel stream is open. -/
  streaming : Bool
  /-- The first byte of a pixel whose second byte has not come. -/
  latch : Option Byte
  /-- The memory-access-control byte. -/
  mac : Byte
  /-- The command whose data bytes are being collected (implied by R71). -/
  command : SinkCommand
  /-- The data bytes collected so far, in order (implied by R71). -/
  args : List Byte
  /-- The cells of `GRAM` written so far, cell `prow * 320 + pcol`, in rising order (R75). -/
  gram : List (Nat × Colour)
  /-- The sink was sent something that the spec leaves outside the contract
  (spec/93_implementation_defined.md U4): it refuses to interpret anything further. -/
  outside : Bool
deriving DecidableEq, Repr

/-- The state of the machine: plain data. -/
structure State where
  /-- The implementation parameters, the same in every state of a run (spec/10_state.md R49). -/
  params : Params
  /-- The architectural registers. -/
  regs : Registers
  /-- `BUSY` (R36). -/
  busy : Bool
  /-- The command being executed, while `BUSY` = 1 (implied by spec/30_encoding.md R94). -/
  running : Option Instr
  /-- The chunk buffer of the block fill engine (R37). -/
  chunk : List Byte
  /-- The transactions that the running command has still to emit, in order: what keeps `BUSY` at 1. -/
  pending : List Txn
  /-- How many bytes of the first of them the adapter has already put on the wire (implied by
  spec/20_memory.md R60, R83). -/
  transferred : Nat
  /-- The bus stream `T`: every transaction the adapter has accepted since reset, oldest first (R41). -/
  bus : List Txn
  /-- Asset memory `AMEM`: the bytes the host has written, by rising address (spec/20_memory.md R51). -/
  amem : List Host.Cell
  /-- The display controller. -/
  sink : Sink
  /-- The command port: the word the host holds with valid (spec/30_encoding.md R94). -/
  port : Option CommandWord
  /-- What the outside world does next, in order. The model's own field: the agents' side of a run. -/
  inputs : List Input
  /-- The value of the host's last register read. The model's own field. -/
  readData : BitVec 32
  /-- How many unspecified values have been drawn. The model's own field; it feeds the free values. -/
  free : Nat
deriving DecidableEq, Repr

/-- Why the machine stops with a fault: never. "The block raises no exception, ever"
(spec/60_exceptions.md R280), every address of asset memory is populated and every read is total
(spec/20_memory.md R51, R52), so this type has no constructor. Safe: there is nothing to raise. -/
inductive Fault where
deriving DecidableEq, Repr

/-- Why the model declines a step. No arm of `exec` and no step of the machine uses it: every command and
every action of the host and of the adapter has a next state. -/
inductive Refusal where
  /-- An instruction without a meaning yet, raised by `exec` alone. Safe: nothing is claimed of it. -/
  | notModelled (mnemonic : String)
deriving DecidableEq, Repr

/-- The registers after reset: the reset column of spec/10_state.md R42 (R44). -/
def Registers.reset : Registers where
  rotation := 0
  width := 320
  height := 480
  cursorX := 0
  cursorY := 0
  textFg := 0xFFFF
  textBg := 0x0000
  useBg := false
  textSize := 1
  datum := 0
  activeFont := 0
  slot2 := 0
  slot3 := 0
  slot4 := 0
  slot5 := 0
  result := 0

/-- The chunk buffer after the `n`-th reset: unspecified bytes, as many as `CHUNK_BYTES` (R37). -/
def chunkAfterReset (p : Params) (n : Nat) : List Byte :=
  (List.range (2 * (p.chunkPairs + 1))).map (Config.chunkAfterReset n)

/-- The controller before the engine's first transaction: its ranges and its frame memory are unspecified
(spec/20_memory.md R70); its rotation is 0, as the engine assumes after reset
(spec/70_reset_and_hazards.md R305). -/
def Sink.initial (p : Params) : Sink where
  xs := Config.initialRange 0
  xe := Config.initialRange 1
  ys := Config.initialRange 2
  ye := Config.initialRange 3
  px := 0
  py := 0
  streaming := false
  latch := none
  mac := p.madctlData.get 0
  command := .idle
  args := []
  gram := []
  outside := false

/-- The machine right after reset: registers as spec/10_state.md R44 says, no command on the port, nothing
emitted (spec/70_reset_and_hazards.md R301), asset memory holding no written byte (R51). -/
def State.reset : State where
  params := Config.params
  regs := Registers.reset
  busy := false
  running := none
  chunk := chunkAfterReset Config.params 0
  pending := []
  transferred := 0
  bus := []
  amem := []
  sink := Sink.initial Config.params
  port := none
  inputs := []
  readData := 0
  free := 0

end Sys2Proof.Machine
end

