-- ==== Sys2Proof/Machine/Flags.lean ====
section
/-! DEFINITION. The block's two one-bit flags, `USE_BG` and `BUSY` (spec/10_state.md R28, R36). There
are no condition codes, and no drawing or arithmetic command writes a flag (R28). -/

namespace Sys2Proof.Machine

/-- `USE_BG <- 0`: the background is no longer painted (R28, spec/44_text.md R226). -/
def Registers.clearUseBg (r : Registers) : Registers := { r with useBg := false }

/-- `USE_BG <- 1`: the background is painted, whatever the two colours are (R28, R227). -/
def Registers.setUseBg (r : Registers) : Registers := { r with useBg := true }

/-- A word is accepted from the port: the port is free again, `BUSY` becomes 1 and the word's command is the
one that runs (spec/30_encoding.md R94). -/
def State.takeCommand (s : State) (i : Option Instr) : State :=
  { s with port := none, busy := true, running := i }

/-- `BUSY` after a command's own work or after an accepted transaction: 1 while a transaction of the
command has still to be accepted, 0 otherwise, and then no command runs (R36). -/
def State.settleBusy (s : State) : State :=
  { s with busy := !s.pending.isEmpty, running := if s.pending.isEmpty then none else s.running }

/-- The bits of the STATUS register: bit 0 is `BUSY`, the rest is 0 (R42). -/
def State.status (s : State) : BitVec 32 := if s.busy then 1 else 0

/-- The bits of the TEXT_FLAGS register: bit 0 is `USE_BG`, the rest is 0 (R42). -/
def Registers.textFlags (r : Registers) : BitVec 32 := if r.useBg then 1 else 0

end Sys2Proof.Machine
end

