-- ==== Sys2Proof/Machine/Operands.lean ====
section
/-! DEFINITION. The operand forms and the integer conversions of the pseudocode
(spec/00_scope.md R17, spec/30_encoding.md R92). -/

namespace Sys2Proof.Machine

/-- A `s16` operand or a signed register: `sext_16`, -32768..32767 (R92). -/
def s16 (v : Half) : Int := v.toInt

/-- A `u16` operand or an unsigned register: `zext_16`, 0..65535 (R92). -/
def u16 (v : Half) : Nat := v.toNat

/-- A `u8` operand or register: `zext_8`, 0..255 (R92). -/
def u8 (v : Byte) : Nat := v.toNat

/-- A signed 8-bit field: `sext_8`, -128..127 (spec/20_memory.md R65). -/
def s8 (v : Nat) : Int := if v < 128 then (v : Int) else (v : Int) - 256

/-- `wrap_s16`, as the pattern that a cursor register stores (R17, spec/10_state.md R31). -/
def wrapS16 (v : Int) : Half := BitVec.ofInt 16 v

/-- `u16(v)` of a bus field: the low 16 bits (R17). -/
def low16 (v : Nat) : BitVec 16 := BitVec.ofNat 16 v

/-- A 16-bit value zero-extended to 32 bits, as the read port and RESULT show it (R42). -/
def zext32 (v : Half) : BitVec 32 := v.setWidth 32

end Sys2Proof.Machine
end

