-- ==== Sys2Proof/Machine/Ops.lean ====
section
/-! DEFINITION. The operations over memory, the bus stream and the registers that the meanings share.
There is no operation that takes an exception and none that returns from one: the block has no exception,
trap or interrupt (spec/60_exceptions.md R280, R283, R285, R286). What it has in their place is the reset
input, `State.applyReset`. -/

namespace Sys2Proof

/-! ### Parameters read by the meanings -/

/-- `CHUNK_BYTES`, positive and even (spec/00_scope.md R12). -/
def Params.chunkBytes (p : Params) : Nat := 2 * (p.chunkPairs + 1)

/-- `FIXED_MIDDLE_SIGN` (R15). -/
def Params.fixedMiddleSign (p : Params) : Int := if p.fixedMiddleNegative then -1 else 1

/-- `MADCTL_DATA[r]` (R13). -/
def Params.madctl (p : Params) (r : BitVec 2) : Byte := p.madctlData.get r.toFin

/-- `ORIENT[r]` = (swap, mirror_x, mirror_y), swap being 1 exactly for rotations 1 and 3 (R16). -/
def Params.orient (p : Params) (r : BitVec 2) : Bool × Bool × Bool :=
  (r.toNat % 2 == 1, (p.orientMirrors.get r.toFin).1, (p.orientMirrors.get r.toFin).2)

/-- `MemRead(FROM, a, 1)` (R54). The engine forms no address above 474. -/
def Params.fontByte (p : Params) (a : Nat) : Nat := ((p.fixedFontRom.toList)[a]?.getD 0#8).toNat

end Sys2Proof

namespace Sys2Proof.Machine

/-! ### Sparse contents by address, in one canonical form -/

/-- What an address lists, if it is listed. -/
def cellAt {α : Type} (m : List (Nat × α)) (a : Nat) : Option α :=
  match m with
  | [] => none
  | (b, v) :: rest => if b = a then some v else cellAt rest a

/-- Lists `v` at address `a`, keeping the addresses rising. -/
def setCell {α : Type} (m : List (Nat × α)) (a : Nat) (v : α) : List (Nat × α) :=
  match m with
  | [] => [(a, v)]
  | (b, w) :: rest =>
    if a < b then (a, v) :: (b, w) :: rest
    else if a = b then (a, v) :: rest
    else (b, w) :: setCell rest a v

/-- The canonical form: addresses strictly rising, the first at least `lo`, all below `hi`. -/
def cellsWf {α : Type} (lo hi : Nat) (m : List (Nat × α)) : Bool :=
  match m with
  | [] => true
  | (a, _) :: rest => decide (lo ≤ a) && decide (a < hi) && cellsWf (a + 1) hi rest

/-! ### Asset memory -/

/-- The canonical form of asset memory: rising addresses within its 65536 bytes (R51). An unlisted
address holds no written byte, so no entry can equal what an unlisted address holds. -/
def Memory.wf (m : List Host.Cell) : Bool := cellsWf 0 65536 m

/-- What an address reads as when the host never wrote it: a free value (R51, U3). -/
def Memory.unlisted (a : Nat) : Byte := Config.unwrittenAsset a

/-- The byte of asset memory at `u16(a)` (spec/20_memory.md R52, R53). -/
def Memory.read (m : List Host.Cell) (a : Nat) : Byte :=
  (cellAt m (a % 65536)).getD (Memory.unlisted (a % 65536))

/-- The host's write of one byte (R51). -/
def Memory.write (m : List Host.Cell) (a : Half) (b : Byte) : List Host.Cell := setCell m a.toNat b

/-- `MemRead(AMEM, a, 1)` (R53). -/
def State.asset8 (s : State) (a : Nat) : Nat := (Memory.read s.amem a).toNat

/-- `MemRead(AMEM, a, 2)`, most significant byte first (R53). -/
def State.asset16 (s : State) (a : Nat) : Nat := s.asset8 a * 256 + s.asset8 (a + 1)

/-- Bit `7 - k mod 8` of the byte at `base + k div 8`: how every bitmap of asset memory is unpacked,
most significant bit first (R66, R68). -/
def State.assetBit (s : State) (base k : Nat) : Bool :=
  (s.asset8 (base + k / 8)).testBit (7 - k % 8)

/-- The characters of a string operand: `len` bytes from `addr`, no terminator (R67). -/
def State.characters (s : State) (addr len : Nat) : List Nat :=
  (List.range len).map (fun i => s.asset8 (addr + i))

/-! ### The bus stream -/

/-- `emit`, for a list of transactions in order: they follow what the command has still to emit
(R56, R78). Each joins the bus stream when the adapter accepts it (R60). -/
def State.emit (s : State) (ts : List Txn) : State := { s with pending := s.pending ++ ts }

/-- The tagged bytes of one transaction, most significant byte first (R58). -/
def flat (t : Txn) : List (Tag × Byte) :=
  match t with
  | .cmd b => [(.c, b)]
  | .d8 b => [(.d, b)]
  | .d16 w => [(.d, w.extractLsb' 8 8), (.d, w.extractLsb' 0 8)]
  | .d32 d => [(.d, d.extractLsb' 24 8), (.d, d.extractLsb' 16 8), (.d, d.extractLsb' 8 8),
      (.d, d.extractLsb' 0 8)]
  | .buf bs => bs.map (fun b => (.d, b))

/-- The wire trace of a list of transactions, the normative observation of the engine (R58). -/
def wire (ts : List Txn) : List (Tag × Byte) := ts.flatMap flat

/-! ### Registers -/

/-- The width and height that belong to a rotation (spec/10_state.md R24). -/
def panelOf (r : BitVec 2) : Half × Half :=
  if r = 0#2 ∨ r = 2#2 then (320, 480) else (480, 320)

/-- Writes of `ROTATION`, `WIDTH` and `HEIGHT`, always together (R25). -/
def Registers.setPanel (r : Registers) (rot : BitVec 2) : Registers :=
  { r with rotation := rot, width := (panelOf rot).1, height := (panelOf rot).2 }

/-- A write of integers to the cursor registers stores them wrapped to 16 bits (R31). -/
def Registers.setCursor (r : Registers) (x y : Int) : Registers :=
  { r with cursorX := wrapS16 x, cursorY := wrapS16 y }

/-- A write of `ACTIVE_FONT` (R32). -/
def Registers.setFont (r : Registers) (f : Half) : Registers := { r with activeFont := f }

/-- A write of `RESULT` (R35). -/
def Registers.setResult (r : Registers) (v : BitVec 32) : Registers := { r with result := v }

/-- A write of `SLOT[k]` for `2 ≤ k ≤ 5`, nothing for any other `k` (spec/44_text.md R232). -/
def Registers.setSlot (r : Registers) (k : Nat) (f : Half) : Registers :=
  match k with
  | 2 => { r with slot2 := f }
  | 3 => { r with slot3 := f }
  | 4 => { r with slot4 := f }
  | 5 => { r with slot5 := f }
  | _ => r

/-- A font-selection slot as the selection policy and the read port see it: slot 0 is a view of
`ACTIVE_FONT`, slot 1 is the constant 0, slots 2 to 5 are storage (spec/10_state.md R33, R34). -/
def Registers.slot (r : Registers) (k : Nat) : Half :=
  match k with
  | 0 => r.activeFont
  | 2 => r.slot2
  | 3 => r.slot3
  | 4 => r.slot4
  | 5 => r.slot5
  | _ => 0

/-- The register map of the read port: narrow registers zero-extended, 0 for a number that is not in the
table (R42). -/
def State.register (s : State) (number : Byte) : BitVec 32 :=
  match number.toNat with
  | 0x00 => s.status
  | 0x01 => s.regs.result
  | 0x02 => s.regs.rotation.setWidth 32
  | 0x03 => zext32 s.regs.width
  | 0x04 => zext32 s.regs.height
  | 0x05 => zext32 s.regs.cursorX
  | 0x06 => zext32 s.regs.cursorY
  | 0x07 => zext32 s.regs.textFg
  | 0x08 => zext32 s.regs.textBg
  | 0x09 => s.regs.textFlags
  | 0x0A => s.regs.textSize.setWidth 32
  | 0x0B => s.regs.datum.setWidth 32
  | 0x0C => zext32 s.regs.activeFont
  | 0x10 => zext32 (s.regs.slot 0)
  | 0x11 => zext32 (s.regs.slot 1)
  | 0x12 => zext32 (s.regs.slot 2)
  | 0x13 => zext32 (s.regs.slot 3)
  | 0x14 => zext32 (s.regs.slot 4)
  | 0x15 => zext32 (s.regs.slot 5)
  | _ => 0

/-- A number of the register map other than STATUS (R42). -/
def mapped (number : Byte) : Bool :=
  decide (0x01 ≤ number.toNat ∧ number.toNat ≤ 0x0C ∨ 0x10 ≤ number.toNat ∧ number.toNat ≤ 0x15)

/-- What a read of the port returns: STATUS always exact, any other register of the map a free value while
`BUSY` = 1, and 0 for a number that is not in the map, at any time (R42, U6). -/
def State.readPort (s : State) (number : Byte) : BitVec 32 :=
  if s.busy && mapped number then Config.busyRead s.free else s.register number

/-! ### Reset -/

/-- The reset input: ends the command in progress, loads every register with its reset value, leaves the
chunk buffer unspecified, emits nothing and restarts the bus stream; asset memory, the ROM and the
controller are not touched, and the host still holds what it drives on its port
(spec/70_reset_and_hazards.md R300 to R302). -/
def State.applyReset (s : State) : State :=
  { s with
    regs := Registers.reset
    busy := false
    running := none
    chunk := chunkAfterReset s.params (s.free + 1)
    pending := []
    transferred := 0
    bus := []
    free := s.free + 1 }

end Sys2Proof.Machine
end

