-- ==== Sys2Proof/Machine/Addressing.lean ====
section
/-! DEFINITION. The addressing and clipping layer and SET_ROTATION (spec/40_addressing_clipping.md). -/

namespace Sys2Proof.Machine

/-- A clipped rectangle: non-empty and wholly on the panel (R126). -/
structure Rect where
  /-- Left column. -/
  x : Nat
  /-- Top row. -/
  y : Nat
  /-- Width. -/
  w : Nat
  /-- Height. -/
  h : Nat
deriving DecidableEq, Repr

/-- `on_panel` for a panel of the given width and height (R121). -/
def onPanel (width height : Nat) (x y : Int) : Bool :=
  decide (0 ≤ x) && decide (x < width) && decide (0 ≤ y) && decide (y < height)

/-- An extent truncated so that it ends at the panel's edge (R126). -/
def truncate (limit start extent : Nat) : Nat :=
  if start + extent > limit then limit - start else extent

/-- `clip` for a panel of the given width and height: nothing for a negative origin (R123), an origin at
or beyond the panel (R122) or an empty rectangle (R125); otherwise the rectangle truncated on the right and
at the bottom (R126). -/
def clip (width height : Nat) (x y : Int) (w h : Nat) : Option Rect :=
  if x < 0 ∨ y < 0 then none
  else if x ≥ width ∨ y ≥ height then none
  else if w = 0 ∨ h = 0 then none
  else some ⟨x.toNat, y.toNat, truncate width x.toNat w, truncate height y.toNat h⟩

/-- The two bounds of an addressing command in one double word, the low bound in bits 31:16 (R124). -/
def bounds (lo hi : Nat) : BitVec 32 := low16 lo ++ low16 hi

/-- `window`: column bounds, row bounds, begin pixel stream (R124). -/
def window (p : Params) (x0 y0 x1 y1 : Nat) : List Txn :=
  [.cmd p.cmdCaset, .d32 (bounds x0 x1), .cmd p.cmdPaset, .d32 (bounds y0 y1), .cmd p.cmdRamwr]

/-- `WIDTH` as an integer. -/
def State.panelWidth (s : State) : Nat := u16 s.regs.width

/-- `HEIGHT` as an integer. -/
def State.panelHeight (s : State) : Nat := u16 s.regs.height

/-- SET_ROTATION: the rotation and its width and height pair, then the memory-access-control command with
the rotation's data byte, also when the rotation does not change (R130). -/
def execSetRotation (r : BitVec 2) (s : State) : Host.Outcome State Fault Refusal :=
  .next ({ s with regs := s.regs.setPanel r }.emit [.cmd s.params.cmdMadctl, .d8 (s.params.madctl r)])

end Sys2Proof.Machine
end

