-- ==== Sys2Proof/Machine/BlockFill.lean ====
section
/-! DEFINITION. The block fill engine: span streaming through the chunk buffer
(spec/42_block_fill.md). -/

namespace Sys2Proof.Machine

/-- The two bytes of a colour on the wire, high byte first (spec/20_memory.md R58). -/
def colourBytes (c : Colour) : List Byte := [c.extractLsb' 8 8, c.extractLsb' 0 8]

/-- `n` pixels of one colour as bytes: high, low, high, low, ... (R172, R173). -/
def pattern (n : Nat) (c : Colour) : List Byte := (List.replicate n (colourBytes c)).flatten

/-- Prefill: the chunk buffer is loaded with the colour pattern, `CHUNK_BYTES` bytes of it (R172). -/
def State.prefill (s : State) (c : Colour) : State :=
  { s with chunk := pattern (s.params.chunkPairs + 1) c }

/-- How a chunk buffer of `size` bytes is transmitted until `total` bytes are sent: whole chunks, then
the remainder if there is one (R173). -/
def chunks (buffer : List Byte) (size total : Nat) : List Txn :=
  List.replicate (total / size) (.buf (buffer.take size)) ++
    if total % size > 0 then [.buf (buffer.take (total % size))] else []

/-- `stream`: `n` pixels of one colour through the chunk buffer, prefilled once (R172, R173). -/
def State.stream (s : State) (n : Nat) (c : Colour) : State :=
  (s.prefill c).emit (chunks (s.prefill c).chunk s.params.chunkBytes (n * 2))

/-- `fill`: the clipped rectangle's window, then its pixels; nothing when the rectangle is skipped
(R170). -/
def State.fill (s : State) (x y : Int) (w h : Nat) (c : Colour) : State :=
  match clip s.panelWidth s.panelHeight x y w h with
  | none => s
  | some r =>
    (s.emit (window s.params r.x r.y (r.x + r.w - 1) (r.y + r.h - 1))).stream (r.w * r.h) c

end Sys2Proof.Machine
end

