-- ==== Sys2Proof/Machine/Primitives.lean ====
section
/-! DEFINITION. The primitive rasterizer (spec/41_primitives.md).
A rasterizer yields the ordered list of the `pixel` and `fill` calls of its pseudocode; `State.drawAll`
carries them out one after another, each clipped on its own against the panel. -/

namespace Sys2Proof.Machine

/-- `pixel`: a 1 × 1 window and one colour value, nothing off the panel (R140). -/
def State.pixel (s : State) (x y : Int) (c : Colour) : State :=
  if onPanel s.panelWidth s.panelHeight x y then
    s.emit (window s.params x.toNat y.toNat x.toNat y.toNat ++ [.d16 c])
  else s

/-- One call of the layer below. -/
def State.draw (s : State) (r : Request) : State :=
  match r with
  | .pixel x y c => s.pixel x y c
  | .fill x y w h c => s.fill x y w h c

/-- The calls of a rasterizer, in order (spec/20_memory.md R78). -/
def State.drawAll (s : State) (rs : List Request) : State := rs.foldl State.draw s

/-! ### Line -/

/-- The two endpoints of a line. -/
structure Segment where
  /-- First endpoint, x. -/
  x0 : Int
  /-- First endpoint, y. -/
  y0 : Int
  /-- Second endpoint, x. -/
  x1 : Int
  /-- Second endpoint, y. -/
  y1 : Int
deriving DecidableEq, Repr

/-- A line is steep when |dy| > |dx| (R144). -/
def Segment.steep (g : Segment) : Bool := decide ((g.y1 - g.y0).natAbs > (g.x1 - g.x0).natAbs)

/-- The axis roles swapped (R144). -/
def Segment.transpose (g : Segment) : Segment := ⟨g.y0, g.x0, g.y1, g.x1⟩

/-- The endpoints swapped (R144). -/
def Segment.reverse (g : Segment) : Segment := ⟨g.x1, g.y1, g.x0, g.y0⟩

/-- A steep line transposed, then the endpoints ordered by the major coordinate (R144). -/
def Segment.majorForm (g : Segment) : Segment :=
  if (if g.steep then g.transpose else g).x0 > (if g.steep then g.transpose else g).x1 then
    (if g.steep then g.transpose else g).reverse
  else if g.steep then g.transpose else g

/-- One point of the Bresenham loop, the axis roles swapped back for a steep line (R144). -/
def plot (steep : Bool) (x y : Int) (c : Colour) : Request :=
  if steep then .pixel y x c else .pixel x y c

/-- The Bresenham loop: `n` points from (x, y) with the error term `err` (R144). -/
def bresenham (steep : Bool) (dx dy ystep : Int) (c : Colour) (n : Nat) (x y err : Int) :
    List Request :=
  match n with
  | 0 => []
  | n + 1 =>
    plot steep x y c ::
      if err - dy < 0 then bresenham steep dx dy ystep c n (x + 1) (y + ystep) (err - dy + dx)
      else bresenham steep dx dy ystep c n (x + 1) y (err - dy)

/-- The points of a sloped line in its major form (R144). -/
def slopedLine (steep : Bool) (g : Segment) (c : Colour) : List Request :=
  bresenham steep (g.x1 - g.x0) (g.y1 - g.y0).natAbs (if g.y0 < g.y1 then 1 else -1) c
    ((g.x1 - g.x0).toNat + 1) g.x0 g.y0 ((g.x1 - g.x0) / 2)

/-- `line`: a vertical line or a single point and a horizontal line are fills, any other is sloped
(R144). -/
def line (x0 y0 x1 y1 : Int) (c : Colour) : List Request :=
  if x0 = x1 then [.fill x0 (min y0 y1) 1 ((y1 - y0).natAbs + 1) c]
  else if y0 = y1 then [.fill (min x0 x1) y0 ((x1 - x0).natAbs + 1) 1 c]
  else slopedLine (Segment.mk x0 y0 x1 y1).steep (Segment.mk x0 y0 x1 y1).majorForm c

/-! ### Rectangle outline -/

/-- `rect_outline`: four full-length sides in the order top, bottom, left, right (R148). -/
def rectOutline (x y : Int) (w h : Nat) (c : Colour) : List Request :=
  if w = 0 ∨ h = 0 then []
  else
    line x y (x + w - 1) y c ++ line x (y + h - 1) (x + w - 1) (y + h - 1) c ++
      line x y x (y + h - 1) c ++ line (x + w - 1) y (x + w - 1) (y + h - 1) c

/-! ### Circles -/

/-- The state of the midpoint iteration (R152). -/
structure Midpoint where
  /-- Decision variable. -/
  f : Int
  /-- Increment of `f` in x. -/
  ddx : Int
  /-- Increment of `f` in y. -/
  ddy : Int
  /-- Current x. -/
  x : Int
  /-- Current y. -/
  y : Int
deriving DecidableEq, Repr

/-- `init(r)` (R152). -/
def Midpoint.init (r : Nat) : Midpoint := ⟨1 - r, 1, -2 * r, 0, r⟩

/-- The first half of a step: when `f ≥ 0`, y decreases (R152). -/
def Midpoint.stepY (m : Midpoint) : Midpoint :=
  if m.f ≥ 0 then { m with y := m.y - 1, ddy := m.ddy + 2, f := m.f + (m.ddy + 2) } else m

/-- The second half of a step: x increases (R152). -/
def Midpoint.stepX (m : Midpoint) : Midpoint :=
  { m with x := m.x + 1, ddx := m.ddx + 2, f := m.f + (m.ddx + 2) }

/-- `step()` (R152). -/
def Midpoint.step (m : Midpoint) : Midpoint := m.stepY.stepX

/-- The values (x, y) after each step of `while x < y`, at most `fuel` of them (R152). Since x grows by 1
at each step and y never grows, `r` steps are always enough (notes/assumptions/18.md). -/
def circleSteps (fuel : Nat) (m : Midpoint) : List (Int × Int) :=
  match fuel with
  | 0 => []
  | n + 1 => if m.x < m.y then (m.step.x, m.step.y) :: circleSteps n m.step else []

/-- The eight symmetric points of one step (R153). -/
def octants (x0 y0 : Int) (c : Colour) (p : Int × Int) : List Request :=
  [.pixel (x0 + p.1) (y0 + p.2) c, .pixel (x0 - p.1) (y0 + p.2) c,
   .pixel (x0 + p.1) (y0 - p.2) c, .pixel (x0 - p.1) (y0 - p.2) c,
   .pixel (x0 + p.2) (y0 + p.1) c, .pixel (x0 - p.2) (y0 + p.1) c,
   .pixel (x0 + p.2) (y0 - p.1) c, .pixel (x0 - p.2) (y0 - p.1) c]

/-- `circle`: the four cardinal points, then eight points per step (R153). -/
def circle (x0 y0 : Int) (r : Nat) (c : Colour) : List Request :=
  [.pixel x0 (y0 + r) c, .pixel x0 (y0 - r) c, .pixel (x0 + r) y0 c, .pixel (x0 - r) y0 c] ++
    (circleSteps r (Midpoint.init r)).flatMap (octants x0 y0 c)

/-- The four vertical spans of one step (R156). -/
def spans (x0 y0 : Int) (c : Colour) (p : Int × Int) : List Request :=
  [.fill (x0 + p.1) (y0 - p.2) 1 (2 * p.2 + 1).toNat c,
   .fill (x0 + p.2) (y0 - p.1) 1 (2 * p.1 + 1).toNat c,
   .fill (x0 - p.1) (y0 - p.2) 1 (2 * p.2 + 1).toNat c,
   .fill (x0 - p.2) (y0 - p.1) 1 (2 * p.1 + 1).toNat c]

/-- `filled_circle`: the central span, then four spans per step (R156). -/
def filledCircle (x0 y0 : Int) (r : Nat) (c : Colour) : List Request :=
  .fill x0 (y0 - r) 1 (2 * r + 1) c ::
    (circleSteps r (Midpoint.init r)).flatMap (spans x0 y0 c)

/-! ### The commands -/

/-- DRAW_PIXEL (R142). -/
def execDrawPixel (x y : Half) (color : Colour) (s : State) : Host.Outcome State Fault Refusal :=
  .next (s.pixel (s16 x) (s16 y) color)

/-- DRAW_LINE (R146). -/
def execDrawLine (x0 y0 x1 y1 : Half) (color : Colour) (s : State) :
    Host.Outcome State Fault Refusal :=
  .next (s.drawAll (line (s16 x0) (s16 y0) (s16 x1) (s16 y1) color))

/-- DRAW_RECT (R149). -/
def execDrawRect (x y w h : Half) (color : Colour) (s : State) : Host.Outcome State Fault Refusal :=
  .next (s.drawAll (rectOutline (s16 x) (s16 y) (u16 w) (u16 h) color))

/-- FILL_RECT (R151). -/
def execFillRect (x y w h : Half) (color : Colour) (s : State) : Host.Outcome State Fault Refusal :=
  .next (s.fill (s16 x) (s16 y) (u16 w) (u16 h) color)

/-- DRAW_CIRCLE (R154). -/
def execDrawCircle (x0 y0 r : Half) (color : Colour) (s : State) : Host.Outcome State Fault Refusal :=
  .next (s.drawAll (circle (s16 x0) (s16 y0) (u16 r) color))

/-- FILL_CIRCLE (R158). -/
def execFillCircle (x0 y0 r : Half) (color : Colour) (s : State) : Host.Outcome State Fault Refusal :=
  .next (s.drawAll (filledCircle (s16 x0) (s16 y0) (u16 r) color))

end Sys2Proof.Machine
end

