-- ==== Sys2Proof/Machine/Glyph.lean ====
section
/-! DEFINITION. The bitmap glyph decoder, fixed and variable-width, and the bitmap blit
(spec/43_glyph.md; memory layouts in spec/20_memory.md R64 to R69). -/

namespace Sys2Proof.Machine

/-! ### Structures in asset memory -/

/-- `bitmap_base` of the font header at `f` (R64). -/
def State.bitmapBase (s : State) (f : Nat) : Nat := s.asset16 f

/-- `glyph_base` of the font header at `f` (R64). -/
def State.glyphBase (s : State) (f : Nat) : Nat := s.asset16 (f + 2)

/-- `first` of the font header at `f` (R64). -/
def State.firstCode (s : State) (f : Nat) : Nat := s.asset8 (f + 4)

/-- `last` of the font header at `f` (R64). -/
def State.lastCode (s : State) (f : Nat) : Nat := s.asset8 (f + 5)

/-- `yAdvance` of the font header at `f` (R64). -/
def State.yAdvance (s : State) (f : Nat) : Nat := s.asset8 (f + 6)

/-- A glyph record (R65). -/
structure Glyph where
  /-- Byte offset of the first bitmap byte from `bitmap_base`. -/
  bitmapOffset : Nat
  /-- Bitmap width in pixels. -/
  width : Nat
  /-- Bitmap height in pixels. -/
  height : Nat
  /-- Horizontal cursor advance at scale 1. -/
  xAdvance : Nat
  /-- x of the left column relative to the cursor. -/
  xOffset : Int
  /-- y of the top row relative to the cursor. -/
  yOffset : Int
deriving DecidableEq, Repr

/-- The six fields of the record at address `a` (R65). -/
def State.glyphAt (s : State) (a : Nat) : Glyph where
  bitmapOffset := s.asset16 a
  width := s.asset8 (a + 2)
  height := s.asset8 (a + 3)
  xAdvance := s.asset8 (a + 4)
  xOffset := s8 (s.asset8 (a + 5))
  yOffset := s8 (s.asset8 (a + 6))

/-- The glyph record of character `ch` of the font at `f`, for `first ≤ ch` (R65). -/
def State.glyphOf (s : State) (f ch : Nat) : Glyph :=
  s.glyphAt (s.glyphBase f + (ch - s.firstCode f) * 8)

/-- `glyph_bit(g, k)` of the font at `f`: rows are not padded, offsets run on across rows (R66). -/
def State.glyphBit (s : State) (f : Nat) (g : Glyph) (k : Nat) : Bool :=
  s.assetBit (s.bitmapBase f + g.bitmapOffset) k

/-- `blit_bit(addr, w, i, j)`: rows are padded to whole bytes (R68). -/
def State.blitBit (s : State) (addr w i j : Nat) : Bool :=
  s.assetBit (addr + j * ((w + 7) / 8)) i

/-! ### Which characters are drawn, and how far the cursor moves -/

/-- `drawable(ch)`: every code with the fixed font, the codes of `[first, last]` with a variable font
(R192). -/
def State.drawable (s : State) (ch : Nat) : Bool :=
  if s.regs.activeFont = 0 then true
  else decide (s.firstCode (u16 s.regs.activeFont) ≤ ch) &&
    decide (ch ≤ s.lastCode (u16 s.regs.activeFont))

/-- `advance(ch)` for a drawable character (R193). -/
def State.advance (s : State) (ch : Nat) : Nat :=
  if s.regs.activeFont = 0 then 6 * u8 s.regs.textSize
  else (s.glyphOf (u16 s.regs.activeFont) ch).xAdvance * u8 s.regs.textSize

/-! ### Fixed font -/

/-- The code whose glyph the fixed font draws: out-of-range codes fall back to the space (R186). -/
def fixedCode (ch : Nat) : Nat := if 32 ≤ ch ∧ ch ≤ 126 then ch else 32

/-- Bit `j` of column byte `i` of the fixed glyph of `ch`; bit 0 is the top row (R69, R186). -/
def State.fixedBit (s : State) (ch i j : Nat) : Bool :=
  (s.params.fontByte ((fixedCode ch - 32) * 5 + i)).testBit j

/-- The colour a bitmap position is painted with: foreground for a set bit, background for a clear bit if
`USE_BG` is set, otherwise none (R187, R189, R199). -/
def State.inkOf (s : State) (bit : Bool) : Option Colour :=
  if bit then some s.regs.textFg else if s.regs.useBg then some s.regs.textBg else none

/-- `fixed_unscaled`: one `pixel` per painted position, columns outer, rows inner (R187). -/
def State.fixedUnscaled (s : State) (ch : Nat) : List Request :=
  (List.range 5).flatMap fun i => (List.range 8).flatMap fun j =>
    (s.inkOf (s.fixedBit ch i j)).toList.map
      (.pixel (s16 s.regs.cursorX + i) (s16 s.regs.cursorY + j))

/-- `fixed_scaled`: one block of `TEXT_SIZE` × `TEXT_SIZE` per painted position (R189). -/
def State.fixedScaled (s : State) (ch : Nat) : List Request :=
  (List.range 5).flatMap fun i => (List.range 8).flatMap fun j =>
    (s.inkOf (s.fixedBit ch i j)).toList.map
      (.fill (s16 s.regs.cursorX + i * u8 s.regs.textSize) (s16 s.regs.cursorY + j * u8 s.regs.textSize)
        (u8 s.regs.textSize) (u8 s.regs.textSize))

/-! ### Variable font -/

/-- The runs of set bits of a row, from column `xx` on, as (start, length) in order; `run` is the length
of the run that is open and `start` its first column (R197). -/
def runs (bits : List Bool) (xx start run : Nat) : List (Nat × Nat) :=
  match bits with
  | [] => if run > 0 then [(start, run)] else []
  | true :: rest => runs rest (xx + 1) (if run = 0 then xx else start) (run + 1)
  | false :: rest =>
    if run > 0 then (start, run) :: runs rest (xx + 1) start 0 else runs rest (xx + 1) start 0

/-- Row `yy` of the bitmap of `g` (R66). -/
def State.glyphRow (s : State) (f : Nat) (g : Glyph) (yy : Nat) : List Bool :=
  (List.range g.width).map fun xx => s.glyphBit f g (yy * g.width + xx)

/-- The background prefill of the bitmap's box (R196). -/
def State.varPrefill (s : State) (g : Glyph) : List Request :=
  if s.regs.useBg then
    [.fill (s16 s.regs.cursorX + g.xOffset) (s16 s.regs.cursorY + g.yOffset) g.width g.height s.regs.textBg]
  else []

/-- `var_unscaled`: the prefill, then every run of every row as one span (R196, R197). -/
def State.varUnscaled (s : State) (f : Nat) (g : Glyph) : List Request :=
  s.varPrefill g ++ (List.range g.height).flatMap fun (yy : Nat) =>
    (runs (s.glyphRow f g yy) 0 0 0).map fun r =>
      .fill (s16 s.regs.cursorX + g.xOffset + r.1) (s16 s.regs.cursorY + g.yOffset + yy) r.2 1 s.regs.textFg

/-- `var_scaled`: one block per painted position, row-major, no merging and no prefill (R199). -/
def State.varScaled (s : State) (f : Nat) (g : Glyph) : List Request :=
  (List.range g.height).flatMap fun (yy : Nat) => (List.range g.width).flatMap fun (xx : Nat) =>
    (s.inkOf (s.glyphBit f g (yy * g.width + xx))).toList.map
      (.fill (s16 s.regs.cursorX + (g.xOffset + xx) * u8 s.regs.textSize)
        (s16 s.regs.cursorY + (g.yOffset + yy) * u8 s.regs.textSize)
        (u8 s.regs.textSize) (u8 s.regs.textSize))

/-- The calls of `glyph(ch)`, for a drawable character (R185). -/
def State.glyphRequests (s : State) (ch : Nat) : List Request :=
  if s.regs.activeFont = 0 then
    if u8 s.regs.textSize = 1 then s.fixedUnscaled ch else s.fixedScaled ch
  else if u8 s.regs.textSize = 1 then
    s.varUnscaled (u16 s.regs.activeFont) (s.glyphOf (u16 s.regs.activeFont) ch)
  else s.varScaled (u16 s.regs.activeFont) (s.glyphOf (u16 s.regs.activeFont) ch)

/-- `glyph(ch)`: draws at the cursor, writes no register (R185). -/
def State.glyph (s : State) (ch : Nat) : State :=
  if s.drawable ch then s.drawAll (s.glyphRequests ch) else s

/-! ### Bitmap blit -/

/-- The calls of `blit`: one `pixel` per set bit, and per clear bit when there is a background colour
(R204). -/
def State.blit (s : State) (x y : Int) (addr w h : Nat) (fg : Colour) (bg : Option Colour) :
    List Request :=
  (List.range h).flatMap fun (j : Nat) => (List.range w).flatMap fun (i : Nat) =>
    (if s.blitBit addr w i j then some fg else bg).toList.map (.pixel (x + i) (y + j))

/-- DRAW_BITMAP: clear bits are transparent (R205). -/
def execDrawBitmap (x y addr w h : Half) (color : Colour) (s : State) :
    Host.Outcome State Fault Refusal :=
  .next (s.drawAll (s.blit (s16 x) (s16 y) (u16 addr) (u16 w) (u16 h) color none))

/-- DRAW_BITMAP_BG: clear bits are painted with the background colour (R206). -/
def execDrawBitmapBg (x y addr w h : Half) (color bg : Colour) (s : State) :
    Host.Outcome State Fault Refusal :=
  .next (s.drawAll (s.blit (s16 x) (s16 y) (u16 addr) (u16 w) (u16 h) color (some bg)))

end Sys2Proof.Machine
end

