-- ==== Sys2Proof/Machine/System.lean ====
section
/-! DEFINITION. The system commands NOP and PACK_RGB (spec/45_system.md). -/

namespace Sys2Proof.Machine

/-- NOP (R270). -/
def execNop (s : State) : Host.Outcome State Fault Refusal := .next s

/-- A packed colour: `r[7:3] ++ g[7:2] ++ b[7:3]` (R272). -/
def packColour (r g b : Byte) : Colour := r.extractLsb' 3 5 ++ g.extractLsb' 2 6 ++ b.extractLsb' 3 5

/-- PACK_RGB: the packed colour, zero-extended, in `RESULT` (R272). -/
def execPackRgb (r g b : Byte) (s : State) : Host.Outcome State Fault Refusal :=
  .next { s with regs := s.regs.setResult (zext32 (packColour r g b)) }

end Sys2Proof.Machine
end

