-- ==== Sys2Proof/Machine/Text.lean ====
section
/-! DEFINITION. The text layout engine (spec/44_text.md). -/

namespace Sys2Proof.Machine

/-! ### State-setting commands -/

/-- SET_CURSOR (R225). -/
def execSetCursor (x y : Half) (s : State) : Host.Outcome State Fault Refusal :=
  .next { s with regs := s.regs.setCursor (s16 x) (s16 y) }

/-- SET_TEXT_COLOR: the foreground, and the background is no longer painted (R226). -/
def execSetTextColor (fg : Colour) (s : State) : Host.Outcome State Fault Refusal :=
  .next { s with regs := { s.regs with textFg := fg }.clearUseBg }

/-- SET_TEXT_COLOR_BG: both colours, and the background is painted (R227). -/
def execSetTextColorBg (fg bg : Colour) (s : State) : Host.Outcome State Fault Refusal :=
  .next { s with regs := { s.regs with textFg := fg, textBg := bg }.setUseBg }

/-- SET_TEXT_SIZE: the size, 0 clamped to 1 (R228). -/
def execSetTextSize (size : Byte) (s : State) : Host.Outcome State Fault Refusal :=
  .next { s with regs := { s.regs with textSize := if size = 0 then 1 else size } }

/-- SET_TEXT_DATUM: stored as given (R229). -/
def execSetTextDatum (d : Byte) (s : State) : Host.Outcome State Fault Refusal :=
  .next { s with regs := { s.regs with datum := d } }

/-- SET_FREE_FONT: stored, the header is not read (R230). -/
def execSetFreeFont (font : Half) (s : State) : Host.Outcome State Fault Refusal :=
  .next { s with regs := s.regs.setFont font }

/-- SET_FONT_SLOT: slots 2 to 5, any other index is ignored (R232). -/
def execSetFontSlot (k : Byte) (font : Half) (s : State) : Host.Outcome State Fault Refusal :=
  .next { s with regs := s.regs.setSlot (u8 k) font }

/-! ### Streaming text -/

/-- `line_advance()` (R234). -/
def State.lineAdvance (s : State) : Nat :=
  if s.regs.activeFont = 0 then 8 * u8 s.regs.textSize
  else s.yAdvance (u16 s.regs.activeFont) * u8 s.regs.textSize

/-- `newline()` (R234). -/
def State.newline (s : State) : State :=
  { s with regs := s.regs.setCursor 0 (s16 s.regs.cursorY + s.lineAdvance) }

/-- The cursor moved right by a character's advance, wrapping as its register does (R235, R31). -/
def State.advanceCursor (s : State) (ch : Nat) : State :=
  { s with regs := s.regs.setCursor (s16 s.regs.cursorX + s.advance ch) (s16 s.regs.cursorY) }

/-- `put_char(ch)`: a character that is not drawable is skipped, the cursor staying where it is (R235). -/
def State.putChar (s : State) (ch : Nat) : State :=
  if s.drawable ch then (s.glyph ch).advanceCursor ch else s

/-- One character of PRINT: the newline test comes first (R236). -/
def State.printChar (s : State) (ch : Nat) : State := if ch = 0x0A then s.newline else s.putChar ch

/-- The loop of PRINT (R236). -/
def State.printAll (s : State) (chs : List Nat) : State := chs.foldl State.printChar s

/-- PRINT (R236). -/
def execPrint (addr : Half) (len : Byte) (s : State) : Host.Outcome State Fault Refusal :=
  .next (s.printAll (s.characters (u16 addr) (u8 len)))

/-- PRINTLN: the loop of PRINT, then one newline (R238). -/
def execPrintln (addr : Half) (len : Byte) (s : State) : Host.Outcome State Fault Refusal :=
  .next (s.printAll (s.characters (u16 addr) (u8 len))).newline

/-! ### Anchored strings: procedures -/

/-- `select_font(sel)`: 0 keeps the current font, 2 to 5 take a slot, anything else the fixed font
(R240). -/
def State.selectFont (s : State) (sel : Nat) : State :=
  { s with regs := s.regs.setFont (if sel ≤ 5 then s.regs.slot sel else 0) }

/-- What `measure` returns (R244). -/
structure Metrics where
  /-- Total advance width. -/
  width : Nat
  /-- Ascent; negative when every glyph starts below the baseline (R246). -/
  ascent : Int
  /-- Height. -/
  height : Int
deriving DecidableEq, Repr

/-- The string's width: the advances of its drawable characters (R244). -/
def State.measureWidth (s : State) (chs : List Nat) : Nat :=
  ((chs.filter s.drawable).map s.advance).sum

/-- The union of the vertical ranges of a list of glyphs, (minY, maxY); none for no glyph (R244, R246). -/
def verticalExtent (gs : List Glyph) : Option (Int × Int) :=
  gs.foldl (fun e g => match e with
    | none => some (g.yOffset, g.yOffset + g.height)
    | some (lo, hi) => some (min lo g.yOffset, max hi (g.yOffset + g.height))) none

/-- The drawable characters' glyphs in the active variable font (R244). -/
def State.glyphsOf (s : State) (chs : List Nat) : List Glyph :=
  (chs.filter s.drawable).map (s.glyphOf (u16 s.regs.activeFont))

/-- `measure` under the current font and size (R244 to R247). -/
def State.measure (s : State) (chs : List Nat) : Metrics :=
  if s.regs.activeFont = 0 then ⟨s.measureWidth chs, 0, 8 * u8 s.regs.textSize⟩
  else match verticalExtent (s.glyphsOf chs) with
    | none => ⟨s.measureWidth chs, 0, 0⟩
    | some (lo, hi) => ⟨s.measureWidth chs, -lo * u8 s.regs.textSize, (hi - lo) * u8 s.regs.textSize⟩

/-- The horizontal part of `anchor`: no shift, half the width, the full width (R248, R250). -/
def anchorX (datum : Nat) (x : Int) (m : Metrics) : Int :=
  match datum % 3 with
  | 0 => x
  | 1 => x - m.width / 2
  | _ => x - m.width

/-- The vertical part of `anchor` for a variable font; a vertical class above 1 does not shift
(R249, R251). -/
def anchorYVariable (datum : Nat) (y : Int) (m : Metrics) : Int :=
  match datum / 3 with
  | 0 => y + m.ascent
  | 1 => y + m.ascent - m.height / 2
  | _ => y

/-- The vertical part of `anchor` for the fixed font: only the middle class shifts, by
`FIXED_MIDDLE_SIGN` half heights (R252). -/
def anchorYFixed (sign : Int) (datum : Nat) (y : Int) (m : Metrics) : Int :=
  match datum / 3 with
  | 0 => y
  | 1 => y + sign * (m.height / 2)
  | _ => y

/-- `anchor`, under the selected font (R250 to R252). -/
def State.anchor (s : State) (x y : Int) (m : Metrics) : Int × Int :=
  (anchorX (u8 s.regs.datum) x m,
   if s.regs.activeFont = 0 then anchorYFixed s.params.fixedMiddleSign (u8 s.regs.datum) y m
   else anchorYVariable (u8 s.regs.datum) y m)

/-- The drawing loop of the string commands; a newline code is an ordinary character (R253). -/
def State.putAll (s : State) (chs : List Nat) : State := chs.foldl State.putChar s

/-- The end of a string command: cursor, font and size as they were saved, then `RESULT` (R242, R254). -/
def Registers.restoreText (r saved : Registers) (width : Nat) : Registers :=
  { r with
    cursorX := saved.cursorX
    cursorY := saved.cursorY
    activeFont := saved.activeFont
    textSize := saved.textSize
    result := BitVec.ofNat 32 width }

/-- The string commands from the measured width on: anchor at (x, y), draw, restore (R254). -/
def State.drawAnchored (s : State) (saved : Registers) (chs : List Nat) (x y : Int) : State :=
  let o := s.anchor x y (s.measure chs)
  let t := { s with regs := s.regs.setCursor o.1 o.2 }.putAll chs
  { t with regs := t.regs.restoreText saved (s.measure chs).width }

/-! ### Anchored strings: commands -/

/-- DRAW_STRING (R254). -/
def execDrawString (addr : Half) (len : Byte) (x y sel : Half) (s : State) :
    Host.Outcome State Fault Refusal :=
  .next ((s.selectFont (u16 sel)).drawAnchored s.regs (s.characters (u16 addr) (u8 len)) (s16 x) (s16 y))

/-- DRAW_CENTRE_STRING: x is shifted left by half the width measured under the selected font, then the
datum is applied as well (R258). -/
def execDrawCentreString (addr : Half) (len : Byte) (x y sel : Half) (s : State) :
    Host.Outcome State Fault Refusal :=
  let chs := s.characters (u16 addr) (u8 len)
  let t := s.selectFont (u16 sel)
  .next (t.drawAnchored s.regs chs (s16 x - (t.measure chs).width / 2) (s16 y))

end Sys2Proof.Machine
end

