-- ==== Sys2Proof/Machine/Dispatch.lean ====
section
/-! DEFINITION. One arm per command: what the engine does with it. -/

namespace Sys2Proof.Machine

def exec (i : Instr) (s : State) : Host.Outcome State Fault Refusal :=
  match i with
  | .nop => Sys2Proof.Machine.execNop s
  | .setRotation r => Sys2Proof.Machine.execSetRotation r s
  | .packRgb r g b => Sys2Proof.Machine.execPackRgb r g b s
  | .drawPixel x y color => Sys2Proof.Machine.execDrawPixel x y color s
  | .drawLine x0 y0 x1 y1 color => Sys2Proof.Machine.execDrawLine x0 y0 x1 y1 color s
  | .drawRect x y w h color => Sys2Proof.Machine.execDrawRect x y w h color s
  | .fillRect x y w h color => Sys2Proof.Machine.execFillRect x y w h color s
  | .drawCircle x0 y0 r color => Sys2Proof.Machine.execDrawCircle x0 y0 r color s
  | .fillCircle x0 y0 r color => Sys2Proof.Machine.execFillCircle x0 y0 r color s
  | .drawBitmap x y addr w h color => Sys2Proof.Machine.execDrawBitmap x y addr w h color s
  | .drawBitmapBg x y addr w h color bg => Sys2Proof.Machine.execDrawBitmapBg x y addr w h color bg s
  | .setCursor x y => Sys2Proof.Machine.execSetCursor x y s
  | .setTextColor fg => Sys2Proof.Machine.execSetTextColor fg s
  | .setTextColorBg fg bg => Sys2Proof.Machine.execSetTextColorBg fg bg s
  | .setTextSize size => Sys2Proof.Machine.execSetTextSize size s
  | .setTextDatum d => Sys2Proof.Machine.execSetTextDatum d s
  | .setFreeFont font => Sys2Proof.Machine.execSetFreeFont font s
  | .setFontSlot k font => Sys2Proof.Machine.execSetFontSlot k font s
  | .print addr len => Sys2Proof.Machine.execPrint addr len s
  | .println addr len => Sys2Proof.Machine.execPrintln addr len s
  | .drawString addr len x y sel => Sys2Proof.Machine.execDrawString addr len x y sel s
  | .drawCentreString addr len x y sel => Sys2Proof.Machine.execDrawCentreString addr len x y sel s

end Sys2Proof.Machine
end

