-- ==== Sys2Proof/Machine/Hazard.lean ====
section
/-! DEFINITION. What the spec leaves open when the host does not respect the interface: asset memory
rewritten while a command runs (spec/70_reset_and_hazards.md R308, spec/93_implementation_defined.md U5).
The write happens and the command goes on; if the command reads the rewritten byte, the rest of its result is
a free value, still made of well-formed windows and pixels. -/

namespace Sys2Proof.Machine

/-! ### Which asset memory a command reads (spec/45_system.md R275) -/

/-- Address `a` is one of the `n` addresses from `base` on, modulo 65536 (spec/20_memory.md R52). -/
def within (a base n : Nat) : Bool := decide ((a + 65536 - base % 65536) % 65536 < n)

/-- Drawing or measuring these characters reads address `a` of the active font: its header, the record of a
drawable character, or its bitmap (R64 to R66). -/
def State.textReads (s : State) (chs : List Nat) (a : Nat) : Bool :=
  s.regs.activeFont != 0 &&
    (within a (u16 s.regs.activeFont) 7 || chs.any fun ch => s.drawable ch &&
      (within a (s.glyphBase (u16 s.regs.activeFont) + (ch - s.firstCode (u16 s.regs.activeFont)) * 8) 7 ||
        within a (s.bitmapBase (u16 s.regs.activeFont) +
            (s.glyphOf (u16 s.regs.activeFont) ch).bitmapOffset)
          (((s.glyphOf (u16 s.regs.activeFont) ch).width *
            (s.glyphOf (u16 s.regs.activeFont) ch).height + 7) / 8)))

/-- A string of `len` characters at `addr`, drawn or measured under the active font, reads address `a`. -/
def State.stringReads (s : State) (addr len a : Nat) : Bool :=
  within a addr len || s.textReads (s.characters addr len) a

/-- Command `i` may read address `a` of asset memory; every address that it reads is among these. -/
def State.reads (s : State) (i : Instr) (a : Nat) : Bool :=
  match i with
  | .nop | .setRotation _ | .packRgb _ _ _ => false
  | .drawPixel _ _ _ | .drawLine _ _ _ _ _ | .drawRect _ _ _ _ _ | .fillRect _ _ _ _ _ => false
  | .drawCircle _ _ _ _ | .fillCircle _ _ _ _ => false
  | .drawBitmap _ _ addr w h _ => within a (u16 addr) (u16 h * ((u16 w + 7) / 8))
  | .drawBitmapBg _ _ addr w h _ _ => within a (u16 addr) (u16 h * ((u16 w + 7) / 8))
  | .setCursor _ _ | .setTextColor _ | .setTextColorBg _ _ | .setTextSize _ | .setTextDatum _ => false
  | .setFreeFont _ | .setFontSlot _ _ => false
  | .print addr len => s.stringReads (u16 addr) (u8 len) a
  | .println addr len => s.stringReads (u16 addr) (u8 len) a
  | .drawString addr len _ _ sel => (s.selectFont (u16 sel)).stringReads (u16 addr) (u8 len) a
  | .drawCentreString addr len _ _ sel => (s.selectFont (u16 sel)).stringReads (u16 addr) (u8 len) a

/-! ### The rest of a result that has become unspecified -/

/-- The transactions up to where the next window begins: the rest of the window that is being sent. -/
def restOfWindow (p : Params) (ts : List Txn) : List Txn :=
  match ts with
  | [] => []
  | t :: rest =>
    match t, rest with
    | .cmd b, .d32 _ :: .cmd _ :: .d32 _ :: .cmd _ :: _ =>
      if b = p.cmdCaset then [] else t :: restOfWindow p rest
    | _, _ => t :: restOfWindow p rest

/-- The window that the offered transaction belongs to or begins, from that transaction on. -/
def State.offeredWindow (s : State) : List Txn :=
  match s.pending with
  | [] => []
  | t :: rest => t :: restOfWindow s.params rest

/-- What a running command still sends whatever it reads from now on: the rest of the window of which the
adapter has something, its data included. -/
def State.committed (s : State) : List Txn :=
  if s.transferred = 0 then restOfWindow s.params s.pending else s.offeredWindow

/-- The registers that a command computes from asset memory, as free values: the cursor for PRINT, its row
for PRINTLN, the width for the string commands, at most what spec/44_text.md R222 allows. -/
def Registers.torn (r : Registers) (i : Instr) (n : Nat) : Registers :=
  match i with
  | .nop | .setRotation _ | .packRgb _ _ _ => r
  | .drawPixel _ _ _ | .drawLine _ _ _ _ _ | .drawRect _ _ _ _ _ | .fillRect _ _ _ _ _ => r
  | .drawCircle _ _ _ _ | .fillCircle _ _ _ _ => r
  | .drawBitmap _ _ _ _ _ _ | .drawBitmapBg _ _ _ _ _ _ _ => r
  | .setCursor _ _ | .setTextColor _ | .setTextColorBg _ _ | .setTextSize _ | .setTextDatum _ => r
  | .setFreeFont _ | .setFontSlot _ _ => r
  | .print _ _ => { r with cursorX := Config.tornCursorX n, cursorY := Config.tornCursorY n }
  | .println _ _ => { r with cursorY := Config.tornCursorY n }
  | .drawString _ _ _ _ _ => r.setResult (BitVec.ofNat 32 (Config.tornResult n % 16581376))
  | .drawCentreString _ _ _ _ _ => r.setResult (BitVec.ofNat 32 (Config.tornResult n % 16581376))

/-- The transaction that the adapter is offered is a call that has not returned (spec/20_memory.md R60): it is
never withdrawn, so a busy engine with no window left to send finishes the one that was offered. -/
def State.keepOffered (t s : State) : State :=
  { t with pending := if t.pending.isEmpty then s.offeredWindow else t.pending }

/-- The rest of the result of command `i` becomes unspecified: after the window that is being sent, some
drawing calls, each clipped as every call is, and some value in each register it computes (R308, U5). `BUSY`
stays 1: only the adapter's acceptances or reset end a command (spec/60_exceptions.md R288, U9). -/
def State.tear (s : State) (i : Instr) : State :=
  (State.drawAll { s with pending := s.committed, regs := s.regs.torn i s.free, free := s.free + 1 }
    (Config.tornCalls s.free)).keepOffered s

/-- The rewritten byte matters to the command that runs: it reads the address, and the byte is another one
than was written there before. -/
def State.hazard (s : State) (a : Half) (b : Byte) : Bool :=
  s.busy && (s.running.any fun i => s.reads i a.toNat) && cellAt s.amem a.toNat != some b

/-- The host writes a byte of asset memory. While `BUSY` = 0 every later command sees it
(spec/20_memory.md R81); while `BUSY` = 1 the command that runs may or may not (R308). -/
def State.writeAsset (s : State) (a : Half) (b : Byte) : State :=
  match s.running with
  | none => { s with amem := Memory.write s.amem a b }
  | some i =>
    if s.hazard a b then State.tear { s with amem := Memory.write s.amem a b } i
    else { s with amem := Memory.write s.amem a b }

end Sys2Proof.Machine
end

