-- ==== Sys2Proof/Machine/Sink.lean ====
section
/-! DEFINITION. The display controller as a reference sink: the rotation-aware frame-buffer address mapper
(spec/20_memory.md R70 to R77). It consumes the wire trace byte by byte. What the spec leaves outside its
contract (spec/93_implementation_defined.md U4) sets the sink's `outside` mark, after which it interprets
nothing. -/

namespace Sys2Proof.Machine

/-- The sink's rotation: the `r` with `MADCTL_DATA[r] = mac`, if there is one (R76). R76 requires the four
bytes to be different; the least `r` is taken where they are not (notes/assumptions/24.md). -/
def Sink.rotation (p : Params) (k : Sink) : Option (BitVec 2) :=
  [0#2, 1#2, 2#2, 3#2].find? fun r => p.madctl r == k.mac

/-- The logical address of an on-panel pixel (R74). -/
def logicalAddress (width x y : Nat) : Nat := y * width + x

/-- A glass coordinate, mirrored or not, on an axis of `size` cells (R75). -/
def mirror (on : Bool) (size v : Nat) : Nat := if on then size - 1 - v else v

/-- The physical cell (pcol, prow) of logical (x, y) under (swap, mirror_x, mirror_y) (R75). -/
def physical (o : Bool × Bool × Bool) (x y : Nat) : Nat × Nat :=
  (mirror o.2.1 320 (if o.1 then y else x), mirror o.2.2 480 (if o.1 then x else y))

/-- The number of a cell of `GRAM`: rows of 320 cells (R70). -/
def cellNumber (c : Nat × Nat) : Nat := c.2 * 320 + c.1

/-- The colour a cell of `GRAM` holds; a cell never written holds a free value (R70). -/
def Sink.cell (k : Sink) (pcol prow : Nat) : Colour :=
  (cellAt k.gram (cellNumber (pcol, prow))).getD (Config.unwrittenPixel (cellNumber (pcol, prow)))

/-- A window whose bounds are in order and on the panel of a rotation (R77, U4). -/
def Sink.windowOk (k : Sink) (r : BitVec 2) : Bool :=
  decide (u16 k.xs ≤ u16 k.xe) && decide (u16 k.ys ≤ u16 k.ye) &&
    decide (u16 k.xe < u16 (panelOf r).1) && decide (u16 k.ye < u16 (panelOf r).2)

/-- The write pointer moves on: right, or to the start of the next row (R72). -/
def Sink.advance (k : Sink) : Sink :=
  if k.px < u16 k.xe then { k with px := k.px + 1 } else { k with px := u16 k.xs, py := k.py + 1 }

/-- One pixel of the stream at the write pointer; a full window or an unknown rotation is outside the
contract (R72, R73, R75). -/
def Sink.store (p : Params) (k : Sink) (c : Colour) : Sink :=
  match k.rotation p with
  | none => { k with outside := true }
  | some r =>
    if k.py > u16 k.ye then { k with outside := true }
    else { k with gram := setCell k.gram (cellNumber (physical (p.orient r) k.px k.py)) c }.advance

/-- Begin pixel stream: the pointer goes to the window's first pixel (R72). -/
def Sink.begin (p : Params) (k : Sink) : Sink :=
  match k.rotation p with
  | none => { k with outside := true }
  | some r =>
    if k.windowOk r then { k with px := u16 k.xs, py := u16 k.ys, streaming := true }
    else { k with outside := true }

/-- A command byte: it ends a pixel stream, with half a pixel received too, and any collection of data bytes
(R71, spec/70_reset_and_hazards.md R302). The order of the tests decides only where two of the four command
bytes are equal, of which the spec says nothing (DESIGN CHOICE, notes/assumptions/24.md). -/
def Sink.commandByte (p : Params) (k : Sink) (b : Byte) : Sink :=
  let q := { k with streaming := false, latch := none, command := .idle, args := [] }
  if b = p.cmdCaset then { q with command := .columns }
  else if b = p.cmdPaset then { q with command := .rows }
  else if b = p.cmdRamwr then q.begin p
  else if b = p.cmdMadctl then { q with command := .access }
  else { q with outside := true }

/-- A data byte of a pixel stream: pairs of bytes, high byte first (R72). -/
def Sink.streamByte (p : Params) (k : Sink) (b : Byte) : Sink :=
  match k.latch with
  | none => { k with latch := some b }
  | some hi => { k with latch := none }.store p (hi ++ b)

/-- A data byte of an addressing command: the fourth completes the range (R71). -/
def Sink.rangeByte (k : Sink) (b : Byte) : Sink :=
  match k.args, k.command with
  | [b0, b1, b2], .columns => { k with xs := b0 ++ b1, xe := b2 ++ b, command := .idle, args := [] }
  | [b0, b1, b2], .rows => { k with ys := b0 ++ b1, ye := b2 ++ b, command := .idle, args := [] }
  | as, _ => { k with args := as ++ [b] }

/-- A data byte (R71, R72, R76). -/
def Sink.dataByte (p : Params) (k : Sink) (b : Byte) : Sink :=
  match k.command with
  | .columns => k.rangeByte b
  | .rows => k.rangeByte b
  | .access => { k with mac := b, command := .idle }
  | .idle => if k.streaming then k.streamByte p b else { k with outside := true }

/-- One byte of the wire trace. -/
def Sink.feed (p : Params) (k : Sink) (t : Tag × Byte) : Sink :=
  if k.outside then k
  else match t.1 with
    | .c => k.commandByte p t.2
    | .d => k.dataByte p t.2

/-- Bytes of the wire trace, in order (R60). -/
def Sink.feedBytes (p : Params) (k : Sink) (bs : List (Tag × Byte)) : Sink := bs.foldl (Sink.feed p) k

/-- A list of transactions, byte by byte in the order of the wire trace (R60). -/
def Sink.feedAll (p : Params) (k : Sink) (ts : List Txn) : Sink := k.feedBytes p (wire ts)

end Sys2Proof.Machine
end

