-- ==== Sys2Proof/Machine/HostPort.lean ====
section
/-! DEFINITION. What happens at the engine's interface besides the acceptance of a command: the command
port, the asset-memory port (Machine/Hazard.lean), the read port, the adapter, reset. -/

namespace Sys2Proof.Machine

/-- The host drives a word on the command port. While the engine is not ready it takes nothing from there, so
the word that is driven when it becomes ready is the one that it accepts (spec/30_encoding.md R94). -/
def State.presentCommand (s : State) (cw : CommandWord) : State := { s with port := some cw }

/-- The host reads a register: no side effect on the engine (spec/10_state.md R42). -/
def State.readRegister (s : State) (number : Byte) : State :=
  { s with readData := s.readPort number, free := s.free + 1 }

/-- The bytes that the running command has still to put on the wire. -/
def State.unsent (s : State) : List (Tag × Byte) := (wire s.pending).drop s.transferred

/-- The adapter puts the next byte of the transaction it is offered on the wire (spec/20_memory.md R60,
R83). With nothing left of it, or nothing offered, nothing happens. -/
def State.transferByte (s : State) : State :=
  match s.pending with
  | [] => s
  | t :: _ =>
    match (flat t)[s.transferred]? with
    | none => s
    | some b => { s with sink := s.sink.feed s.params b, transferred := s.transferred + 1 }

/-- The adapter completes the transaction it is offered, the first of those still to be emitted: what is left
of it reaches the controller, it joins the bus stream, and `BUSY` falls with the last one
(spec/20_memory.md R60, spec/10_state.md R36). With nothing offered, nothing happens. -/
def State.acceptTransaction (s : State) : State :=
  match s.pending with
  | [] => s
  | t :: ts =>
    State.settleBusy { s with
      pending := ts
      transferred := 0
      bus := s.bus ++ [t]
      sink := s.sink.feedBytes s.params ((flat t).drop s.transferred) }

/-- One event of the outside world. -/
def State.handle (s : State) (e : Input) : State :=
  match e with
  | .present cw => s.presentCommand cw
  | .changeWord cw => s.presentCommand cw
  | .assetWrite a b => s.writeAsset a b
  | .readRegister number => s.readRegister number
  | .adapterTransfers => s.transferByte
  | .adapterAccepts => s.acceptTransaction
  | .reset => s.applyReset

/-- The next event, if there is one; with none the machine waits as it is (R301). -/
def State.nextEvent (s : State) : State :=
  match s.inputs with
  | [] => s
  | e :: es => State.handle { s with inputs := es } e

end Sys2Proof.Machine
end

