-- ==== Sys2Proof/Machine/Handshake.lean ====
section
/-! DEFINITION. The acceptance of a command word (spec/30_encoding.md R94, R98, R100). -/

namespace Sys2Proof.Machine

/-- A command's own work is done: `BUSY` stays 1 only while its transactions are being emitted. -/
def settle (o : Host.Outcome State Fault Refusal) : Host.Outcome State Fault Refusal :=
  match o with
  | .next s => .next s.settleBusy
  | .fault f => .fault f
  | .refused r => .refused r

/-- A word is accepted: `BUSY` becomes 1 and the command runs by its rule; a word with a reserved opcode
is accepted and completes at once (R94, R98). -/
def State.acceptCommand (s : State) (cw : CommandWord) : Host.Outcome State Fault Refusal :=
  match decode cw with
  | .ok i => settle (exec i (s.takeCommand (some i)))
  | .error _ => .next (s.takeCommand none).settleBusy

/-- The word that a ready engine takes from its port, on which `cw` is driven: some unspecified word if the
host changes it in that very cycle, `cw` in every other case (R94, spec/70_reset_and_hazards.md R307, U8). -/
def State.sampledWord (s : State) (cw : CommandWord) : CommandWord :=
  match s.inputs with
  | .changeWord dw :: _ => if dw = cw then cw else Config.changedWord s.free
  | _ => cw

/-- The state in which a ready engine takes a word from its port: a change of the word in that cycle has
happened with it. -/
def State.sampled (s : State) : State :=
  match s.inputs with
  | .changeWord _ :: es => { s with inputs := es, free := s.free + 1 }
  | _ => s

/-- The engine is ready exactly while `BUSY` = 0: a word held on the port is then accepted. In every other
case one event of the outside world happens. -/
def State.proceed (s : State) : Host.Outcome State Fault Refusal :=
  match s.busy, s.port with
  | false, some cw => s.sampled.acceptCommand (s.sampledWord cw)
  | _, _ => .next s.nextEvent

/-- The event is a change of the driven word. -/
def Input.isChange (e : Input) : Bool :=
  match e with
  | .changeWord _ => true
  | .present _ | .assetWrite _ _ | .readRegister _ | .adapterTransfers | .adapterAccepts | .reset => false

/-- The engine ready, with this word on its port and held there. A command still running is taken as done,
since the engine accepts nothing while `BUSY` = 1. -/
def State.withCommand (s : State) (cw : CommandWord) : State :=
  { s with
    busy := false
    running := none
    pending := []
    transferred := 0
    port := some cw
    inputs := s.inputs.dropWhile Input.isChange }

end Sys2Proof.Machine
end

