-- ==== Sys2Proof/Machine/Step.lean ====
section
/-! DEFINITION. One step of the machine. -/

namespace Sys2Proof.Machine

/-- One step: the engine accepts and runs the command on its port if it is ready, otherwise one event of
the outside world happens (spec/30_encoding.md R94). -/
def step (s : State) : Host.Outcome State Fault Refusal := s.proceed

/-- The state in which the very next step accepts and runs the command whose low `nbits` bits are `w`: the
engine ready and the word on the command port. -/
def State.withFetchWord (s : State) (nbits w : Nat) : State := s.withCommand (tableWord nbits w)

end Sys2Proof.Machine
end

