-- ==== Sys2Proof/Safety.lean ====
section
/-! DEFINITION. What counts as a safe run, in the terms the statements use: the invariants of the engine
and of the reference sink, the form of the bus stream, and what a drawing call paints. -/

namespace Sys2Proof

/-- The parameters tell the controller's commands and rotations apart: the four `MADCTL_DATA` bytes are
pairwise different, as spec/20_memory.md R76 requires, and so are the four command bytes, of which the spec
requires nothing: that premise is the model's choice (DESIGN CHOICE, notes/assumptions/24.md). -/
abbrev Params.distinct (p : Params) : Prop :=
  [p.cmdCaset, p.cmdPaset, p.cmdRamwr, p.cmdMadctl].Nodup ∧ p.madctlData.toList.Nodup

end Sys2Proof

namespace Sys2Proof.Machine

/-! ### Invariants -/

/-- The engine's invariant: `WIDTH` and `HEIGHT` belong to `ROTATION` (spec/10_state.md R25), `TEXT_SIZE`
is never 0 (R29), `BUSY` is 1 exactly while a transaction of the running command has still to be accepted
and exactly while a command runs (the model's reading of R36, notes/assumptions/4.md), the adapter has put no
more bytes on the wire than the transaction it is offered has (notes/assumptions/19.md), the chunk buffer has
`CHUNK_BYTES` bytes (R37, notes/assumptions/11.md), no `Buf` is empty (spec/20_memory.md R56), asset memory has
its canonical form (notes/assumptions/3.md). -/
abbrev EngineInv (s : State) : Prop :=
  (s.regs.width, s.regs.height) = panelOf s.regs.rotation ∧
  s.regs.textSize ≠ 0 ∧
  s.busy = !s.pending.isEmpty ∧
  s.running.isSome = s.busy ∧
  s.transferred ≤ ((s.pending.head?.map fun t => (flat t).length).getD 0) ∧
  s.chunk.length = s.params.chunkBytes ∧
  (∀ t ∈ s.bus ++ s.pending, t ≠ .buf []) ∧
  Memory.wf s.amem = true

/-- The sink's invariant: its frame memory has its canonical form within the 153600 cells, and an open
pixel stream has a known rotation, a window on that rotation's panel and its pointer in the window
(spec/20_memory.md R70, R72, R75). -/
abbrev SinkInv (p : Params) (k : Sink) : Prop :=
  cellsWf 0 153600 k.gram = true ∧
  (k.streaming = true →
    k.command = .idle ∧ (k.rotation p).any k.windowOk = true ∧
    u16 k.xs ≤ k.px ∧ k.px ≤ u16 k.xe ∧ u16 k.ys ≤ k.py ∧ k.py ≤ u16 k.ye + 1)

/-- The sink is within its contract, and still will be when it has received what the running command has
still to send; its rotation is then the engine's, and for a command other than SET_ROTATION it is so all the
way (spec/20_memory.md R77, spec/70_reset_and_hazards.md R305). -/
abbrev Conforming (s : State) : Prop :=
  (s.sink.feedBytes s.params s.unsent).outside = false ∧
  (s.sink.feedBytes s.params s.unsent).rotation s.params = some s.regs.rotation ∧
  ((∀ r, s.running ≠ some (.setRotation r)) → ∀ n < s.unsent.length + 1,
    (s.sink.feedBytes s.params (s.unsent.take n)).rotation s.params = some s.regs.rotation)

/-- The outside world's next event is not an assertion of reset. -/
abbrev State.noReset (s : State) : Prop := s.inputs.head? ≠ some .reset

/-- The host does not change the word it drives in the cycle that comes next (spec/70_reset_and_hazards.md
R307). -/
abbrev State.holdsWord (s : State) : Prop := ∀ dw, s.inputs.head? ≠ some (.changeWord dw)

/-! ### The form of the bus stream -/

/-- One window with its pixel data. -/
structure Burst where
  /-- Left column. -/
  x0 : Nat
  /-- Top row. -/
  y0 : Nat
  /-- Right column. -/
  x1 : Nat
  /-- Bottom row. -/
  y1 : Nat
  /-- The transactions after the begin-pixel-stream command. -/
  data : List Txn
deriving DecidableEq, Repr

/-- The transactions of a burst. -/
def Burst.txns (p : Params) (b : Burst) : List Txn := window p b.x0 b.y0 b.x1 b.y1 ++ b.data

/-- A burst as the sink requires it: bounds in order and on the panel, data bytes only, exactly two for
each pixel of the window (spec/20_memory.md R77). -/
abbrev Burst.ok (width height : Nat) (b : Burst) : Prop :=
  b.x0 ≤ b.x1 ∧ b.x1 < width ∧ b.y0 ≤ b.y1 ∧ b.y1 < height ∧
  (∀ t ∈ wire b.data, t.1 = .d) ∧
  (wire b.data).length = 2 * ((b.x1 - b.x0 + 1) * (b.y1 - b.y0 + 1))

/-! ### What a drawing call emits and paints -/

/-- The transactions of one drawing call, a function of the panel and the parameters alone
(spec/41_primitives.md R140, spec/42_block_fill.md R170, R173). -/
def Request.txns (s : State) (r : Request) : List Txn :=
  match r with
  | .pixel x y c =>
    if onPanel s.panelWidth s.panelHeight x y then
      window s.params x.toNat y.toNat x.toNat y.toNat ++ [.d16 c]
    else []
  | .fill x y w h c =>
    match clip s.panelWidth s.panelHeight x y w h with
    | none => []
    | some q =>
      window s.params q.x q.y (q.x + q.w - 1) (q.y + q.h - 1) ++
        chunks (pattern (s.params.chunkPairs + 1) c) s.params.chunkBytes (q.w * q.h * 2)

/-- A drawing call paints pixel (px, py) with colour `c` on a panel of the given size. -/
def Request.paints (width height : Nat) (r : Request) (px py : Nat) (c : Colour) : Prop :=
  match r with
  | .pixel x y d => onPanel width height x y = true ∧ x = px ∧ y = py ∧ c = d
  | .fill x y w h d => ∃ q, clip width height x y w h = some q ∧
      q.x ≤ px ∧ px < q.x + q.w ∧ q.y ≤ py ∧ py < q.y + q.h ∧ c = d

/-- A list of drawing calls paints pixel (px, py) with colour `c`, in one of its calls. -/
def paintsSome (width height : Nat) (rs : List Request) (px py : Nat) (c : Colour) : Prop :=
  ∃ r ∈ rs, r.paints width height px py c

/-- A colour's pixel data on the wire, `n` times (spec/42_block_fill.md R173). -/
def pixelBytes (n : Nat) (c : Colour) : List (Tag × Byte) :=
  (List.replicate n [(Tag.d, c.extractLsb' 8 8), (Tag.d, c.extractLsb' 0 8)]).flatten

/-- The width of a string under the active font: the advances of its drawable characters, added up
(spec/44_text.md R255). -/
def State.advanceSum (s : State) (chs : List Nat) : Nat :=
  chs.foldl (fun n ch => if s.drawable ch then n + s.advance ch else n) 0

end Sys2Proof.Machine
end

