-- ==== Sys2Proof/Certificates/Slice0/Obligations.lean ====
section
/-! DEFINITION. The statements for the provers. Each docstring names the rule of spec/ that it states, or
the sections it is derived from. -/

open Sys2Proof Sys2Proof.Machine

/-! ### Encoding -/

/-- Decoding the word of a command gives the command back, for every command and every operand value
(spec/30_encoding.md R92, R96, R100). -/
def Obligations.DecodeOfEncode : Prop := ∀ i : Instr, decode (encode i) = .ok i

/-- Every word that an assembler writes is the word of the command it decodes to (R93, R96). -/
def Obligations.EncodeOfDecodedAssemblerWord : Prop :=
  ∀ cw : CommandWord, CommandWord.wf cw = true → ∃ i, decode cw = .ok i ∧ encode i = cw

/-- Two words with the same opcode whose slots carry the same values decode alike and are accepted alike:
unused slots, `Z` and the ignored bits of a slot have no effect (R92, R93). -/
def Obligations.IgnoredBitsHaveNoEffect : Prop :=
  ∀ cw dw : CommandWord, CommandWord.op cw = CommandWord.op dw →
    (∀ n < 7, CommandWord.carried (CommandWord.kindOf cw n) (CommandWord.slot cw n) =
      CommandWord.carried (CommandWord.kindOf cw n) (CommandWord.slot dw n)) →
    decode cw = decode dw ∧ ∀ s : State, s.acceptCommand cw = s.acceptCommand dw

/-- Six example words of the spec decode to the commands they stand for (R130, R142, R206, R225, R232,
R254; vector X5 for the ignored bits). -/
def Obligations.DecodesExampleWordsOfTheSpec : Prop :=
  decode 0x01000100000000000000000000000000#128 = .ok (.setRotation 1) ∧
  decode 0x1000050007F800DEADBEEFCAFEF00DAA#128 = .ok (.drawPixel 5 7 0xF800) ∧
  decode 0x1900020002040000030002F800001F00#128 = .ok (.drawBitmapBg 2 2 0x400 3 2 0xF800 0x001F) ∧
  decode 0x20FFFD00040000000000000000000000#128 = .ok (.setCursor (-3) 4) ∧
  decode 0x26000301000000000000000000000000#128 = .ok (.setFontSlot 3 0x100) ∧
  decode 0x2A031000028000000000000000000000#128 = .ok (.drawString 0x310 2 0x8000 0 0)

/-- There are 234 reserved opcodes, and an idle engine that finds a word with one on its port accepts it
and completes it at once, with no other change (R98); no command runs then. That the word goes before any
event, even a reset, is the model's choice (notes/assumptions/5.md). The host holds the word: it does not
change it in the cycle of the acceptance (notes/assumptions/9.md). -/
def Obligations.ReservedWordCompletesAtOnce : Prop :=
  ((List.range 256).filter fun n => (CommandWord.kinds (BitVec.ofNat 8 n)).isNone).length = 234 ∧
  ∀ (s : State) (cw : CommandWord), s.busy = false → s.pending = [] → s.port = some cw → s.holdsWord →
    CommandWord.kinds (CommandWord.op cw) = none → step s = .next { s with port := none, running := none }

/-! ### The handshake and the bus stream -/

/-- A ready engine with a command word on its port, held by the host, runs the decoded command in that step;
`BUSY` then stays 1 exactly while transactions of it have still to be accepted (R94, spec/10_state.md R36).
That the word goes before any event, and that a command's whole effect on the registers falls into the step
that accepts it, are the model's choices (notes/assumptions/5.md, 4.md). The second clause is about a host that
drives another word in the cycle of the acceptance: some single word is accepted in its place, which one is
open (spec/70_reset_and_hazards.md R307, U8; notes/assumptions/9.md). The third is about the fetch word of the
host's interface: that it stands for such a word, and drops what an earlier command has still to send and
changes of the word that would come next, is the model's choice (notes/assumptions/17.md). -/
def Obligations.StepRunsTheDecodedCommand : Prop :=
  (∀ (s : State) (cw : CommandWord) (i : Instr), s.busy = false → s.port = some cw → s.holdsWord →
    decode cw = .ok i →
    ∃ t, exec i { s with port := none, busy := true, running := some i } = .next t ∧
      step s = .next { t with
        busy := !t.pending.isEmpty
        running := if t.pending.isEmpty then none else some i }) ∧
  (∀ (s : State) (cw dw : CommandWord) (es : List Input), s.busy = false → s.port = some cw →
    s.inputs = .changeWord dw :: es →
    ∃ w, (dw = cw → w = cw) ∧
      step s = State.acceptCommand { s with inputs := es, free := s.free + 1 } w) ∧
  ∀ (s : State) (i : Instr), ∃ t,
    exec i { s with
      port := none
      busy := true
      running := some i
      pending := []
      transferred := 0
      inputs := s.inputs.dropWhile Input.isChange } = .next t ∧
    step (s.withFetchWord 128 (encode i).toNat) = .next { t with
      busy := !t.pending.isEmpty
      running := if t.pending.isEmpty then none else some i }

/-- A word that the host drives on the port while the engine takes none from there, since `BUSY` = 1 or the
port was empty, stands there, in place of the one that stood there, and nothing else changes: the engine
accepts the word that is driven when it is ready. While `BUSY` = 1 a word on the port is neither accepted nor
lost, and no further command runs: the word stays unless the host drives another, and asset memory stays
unless the host writes it (R94, vector HS1). That the registers and the chunk buffer stay as well, unless the
host writes asset memory or reset is asserted, is the model's choice: a command takes its whole effect on them
when it is accepted (notes/assumptions/4.md), where the hardware may still be changing them
(spec/70_reset_and_hazards.md R309). So are these: a write of a byte that the running command reads makes the
rest of its result free (notes/assumptions/8.md), a change of the word that meets no acceptance only drives
the new word (notes/assumptions/9.md), the word outlives a reset (notes/assumptions/12.md); that no event comes
between a ready engine and its word is notes/assumptions/5.md. -/
def Obligations.HeldWordWaitsWhileBusy : Prop :=
  (∀ (s : State) (cw : CommandWord) (es : List Input), s.busy = true ∨ s.port = none →
    s.inputs = .present cw :: es ∨ s.inputs = .changeWord cw :: es →
    step s = .next { s with port := some cw, inputs := es }) ∧
  ∀ (s t : State) (cw : CommandWord), s.busy = true → s.port = some cw → step s = .next t →
    t.port.isSome = true ∧
    ((∀ dw, s.inputs.head? ≠ some (.present dw)) → s.holdsWord → t.port = some cw) ∧
    ((∀ a b, s.inputs.head? ≠ some (.assetWrite a b)) →
      t.amem = s.amem ∧ (s.noReset → t.regs = s.regs ∧ t.chunk = s.chunk))

/-- A step never takes back or reorders a transaction: the bus stream grows by at most one, at its end, and
what has been emitted or is still to be emitted only grows at its end (spec/20_memory.md R56, R60, R78).
A host that writes asset memory while `BUSY` = 1 may change what is still to come after the window that is
being sent, and nothing before, nor the transaction that is offered
(spec/70_reset_and_hazards.md R308; notes/assumptions/8.md). That a command's transactions are all pending
from its acceptance on is the model's choice (notes/assumptions/4.md). -/
def Obligations.BusStreamOnlyGrows : Prop :=
  ∀ s t : State, s.noReset → step s = .next t →
    s.bus <+: t.bus ∧ t.bus.length ≤ s.bus.length + 1 ∧ s.bus ++ s.committed <+: t.bus ++ t.pending ∧
    (s.busy = false ∨ (∀ a b, s.inputs.head? ≠ some (.assetWrite a b)) →
      s.bus ++ s.pending <+: t.bus ++ t.pending) ∧
    (s.pending ≠ [] → t.bus = s.bus → t.pending.head? = s.pending.head?)

/-- With an adapter that accepts, a busy engine emits every transaction of its command, in order, and
`BUSY` falls exactly with the last one (spec/10_state.md R36, spec/20_memory.md R60, R79; the acceptances are
the fairness assumption of R62). That nothing else changes, the registers and the chunk buffer among it, is
the model's choice: a command takes its whole effect on them when it is accepted (notes/assumptions/4.md),
where the hardware may still be changing them (spec/70_reset_and_hazards.md R309). So is what the controller
receives: every byte that the adapter had not yet put on the wire (notes/assumptions/19.md). -/
def Obligations.BusyCommandDrains : Prop :=
  ∀ (s : State) (rest : List Input), EngineInv s → s.busy = true →
    s.inputs = List.replicate s.pending.length .adapterAccepts ++ rest →
    core.run s.pending.length s = .next
      { s with pending := [], bus := s.bus ++ s.pending, busy := false, inputs := rest, running := none,
               transferred := 0, sink := s.sink.feedBytes s.params ((wire s.pending).drop s.transferred) }

/-- With an adapter that never completes a transaction and no reset, the engine stays busy for ever: it
completes no transaction more and goes on offering the one it offers, whatever the host does, writes of asset
memory among it, and without those what it has still to emit stays as well. Only an acceptance or reset
makes `BUSY` fall. spec/60_exceptions.md R288, spec/20_memory.md R62 and U9 say it of an offered transaction
that is never completed. That every busy state has one offered, so that `BUSY` never falls for another reason,
is the model's choice: a command that emits nothing is never busy and the next transaction is offered at once
(notes/assumptions/4.md), where the hardware also falls idle after work of its own (spec/10_state.md R36). So
is that a write of asset memory leaves the offered transaction and `BUSY` (notes/assumptions/8.md). -/
def Obligations.StuckWithoutAcceptances : Prop :=
  (∀ (n : Nat) (s t : State), s.busy = true →
    (∀ e ∈ s.inputs, e ≠ .adapterAccepts ∧ e ≠ .reset) → core.run n s = .next t →
    t.busy = true ∧ t.bus = s.bus ∧
      (s.pending ≠ [] → t.pending.head? = s.pending.head?) ∧
      ((∀ a b, .assetWrite a b ∉ s.inputs) → t.pending = s.pending)) ∧
  ∀ s t : State, s.busy = true → step s = .next t → t.busy = false →
    s.inputs.head? = some .adapterAccepts ∨ s.inputs.head? = some .reset

/-! ### Reset, the read port and asset memory -/

/-- Reset ends the command in progress and loads every register with its reset value; it emits nothing,
leaves `CHUNK_BYTES` unspecified bytes in the chunk buffer, and touches neither asset memory, nor the
parameters (the ROM among them), nor the controller (spec/70_reset_and_hazards.md R300 to R302). That the
bus stream starts empty again and the word on the port stays is the model's reading
(notes/assumptions/12.md). Of a ready engine with a word on its port the word goes first, and the reset is
next (notes/assumptions/5.md). -/
def Obligations.ResetLoadsTheResetValues : Prop :=
  (∀ (s : State) (es : List Input), s.inputs = .reset :: es → s.busy = true ∨ s.port = none →
    ∃ t, step s = .next t ∧
      t.regs = { rotation := 0, width := 320, height := 480, cursorX := 0, cursorY := 0,
                 textFg := 0xFFFF, textBg := 0x0000, useBg := false, textSize := 1, datum := 0,
                 activeFont := 0, slot2 := 0, slot3 := 0, slot4 := 0, slot5 := 0, result := 0 } ∧
      t.busy = false ∧ t.running = none ∧ t.pending = [] ∧ t.transferred = 0 ∧ t.bus = [] ∧
      t.chunk.length = s.params.chunkBytes ∧
      t.amem = s.amem ∧ t.params = s.params ∧ t.sink = s.sink ∧ t.port = s.port ∧ t.inputs = es) ∧
  ∀ (s : State) (cw : CommandWord), s.busy = false → s.port = some cw → s.holdsWord →
    ∃ t, step s = .next t ∧ t.port = none ∧ t.inputs = s.inputs

/-- The read port: while `BUSY` = 0 the register map, narrow registers zero-extended; STATUS exact and 0
for every number outside the map in any state (spec/10_state.md R34, R42; vector RP5). The step of a read
changes nothing but what the host has read and the counter of the free values that a read of another
register gives while `BUSY` = 1: `readData` and `free` are the model's own fields
(notes/assumptions/10.md). -/
def Obligations.ReadPortShowsTheRegisters : Prop :=
  (∀ s : State, s.busy = false →
    [0x00#8, 0x01#8, 0x02#8, 0x03#8, 0x04#8, 0x05#8, 0x06#8, 0x07#8, 0x08#8, 0x09#8, 0x0A#8, 0x0B#8,
      0x0C#8, 0x10#8, 0x11#8, 0x12#8, 0x13#8, 0x14#8, 0x15#8].map (fun n => (s.readPort n).toNat) =
    [0, s.regs.result.toNat, s.regs.rotation.toNat, s.regs.width.toNat, s.regs.height.toNat,
      s.regs.cursorX.toNat, s.regs.cursorY.toNat, s.regs.textFg.toNat, s.regs.textBg.toNat,
      s.regs.useBg.toNat, s.regs.textSize.toNat, s.regs.datum.toNat, s.regs.activeFont.toNat,
      s.regs.activeFont.toNat, 0, s.regs.slot2.toNat, s.regs.slot3.toNat, s.regs.slot4.toNat,
      s.regs.slot5.toNat]) ∧
  (∀ (s : State) (n : Byte), 0x15 < n.toNat ∨ (0x0C < n.toNat ∧ n.toNat < 0x10) → s.readPort n = 0) ∧
  (∀ s : State, (s.readPort 0).toNat = s.busy.toNat) ∧
  ∀ (s : State) (n : Byte) (es : List Input), s.inputs = .readRegister n :: es →
    s.busy = true ∨ s.port = none →
    step s = .next { s with readData := s.readPort n, free := s.free + 1, inputs := es }

/-- A byte that the host writes is what every later read of that address returns, and every other byte is as
it was (spec/20_memory.md R51, R81). Nothing else changes, but for one case: `BUSY` is 1, the running command
reads the address and the byte is another one than was written there. What is left of its result is then
unspecified, "but still a sequence of well-formed windows and pixels"
(spec/70_reset_and_hazards.md R308): after the window that is being sent, or the one that is offered, some
drawing calls, each clipped; the offered transaction stays, and `BUSY` with it (spec/60_exceptions.md R288).
What a command reads is the model's reading of the rules (notes/assumptions/8.md); the second clause says
that it is wide enough: no other byte matters to the command. -/
def Obligations.AssetWriteIsSeenAndLocal : Prop :=
  (∀ (s : State) (a : Half) (b : Byte) (es : List Input), s.busy = true ∨ s.port = none →
    s.inputs = .assetWrite a b :: es →
    ∃ t, step s = .next t ∧ Memory.read t.amem a.toNat = b ∧
      (∀ n, n % 65536 ≠ a.toNat → Memory.read t.amem n = Memory.read s.amem n) ∧
      (t = { s with amem := t.amem, inputs := es } ∨
        ∃ (i : Instr) (kept : List Txn) (rs : List Request), s.busy = true ∧ s.running = some i ∧
          s.reads i a.toNat = true ∧ cellAt s.amem a.toNat ≠ some b ∧
          (kept = s.committed ∨ kept = s.offeredWindow) ∧
          (s.pending ≠ [] → t.pending.head? = s.pending.head?) ∧
          t = { s with
                  amem := t.amem
                  inputs := es
                  pending := kept ++ rs.flatMap (Request.txns s)
                  chunk := t.chunk
                  free := s.free + 1
                  regs := { s.regs with
                    cursorX := t.regs.cursorX
                    cursorY := t.regs.cursorY
                    result := t.regs.result } })) ∧
  ∀ (i : Instr) (s t : State) (a : Half) (b : Byte), s.reads i a.toNat = false → exec i s = .next t →
    exec i { s with amem := Memory.write s.amem a b } = .next { t with amem := Memory.write s.amem a b }

/-- Every asset address is reduced modulo 65536, and a two-byte field has its most significant byte first:
a field at address 0xFFFF continues at address 0 (R52, R53). -/
def Obligations.AssetAddressesWrapBigEndian : Prop :=
  ∀ (s : State) (a : Nat), s.asset8 a = (Memory.read s.amem (a % 65536)).toNat ∧
    s.asset16 a = (Memory.read s.amem (a % 65536)).toNat * 256 +
      (Memory.read s.amem ((a + 1) % 65536)).toNat

/-! ### The whole command set -/

/-- Every command completes, in every state and for every operand value: it raises nothing
(spec/60_exceptions.md R280), and it changes only registers, the chunk buffer and what is still to be
emitted, to which it only appends (spec/00_scope.md R18, spec/20_memory.md R56). It writes no memory
(spec/20_memory.md R50). Nor does the machine stop at any step, whatever the host, the adapter and reset do. -/
def Obligations.EveryCommandCompletes : Prop :=
  (∀ (i : Instr) (s : State), ∃ t, exec i s = .next t ∧
    t = { s with regs := t.regs, chunk := t.chunk, pending := t.pending } ∧
    s.pending <+: t.pending ∧ ∀ a, Memory.read t.amem a = Memory.read s.amem a) ∧
  ∀ s : State, ∃ t, step s = .next t

/-- Each register is changed only by the commands that the register map names as its writers
(spec/10_state.md R42). -/
def Obligations.RegistersHaveTheirOnlyWriters : Prop :=
  ∀ (i : Instr) (s t : State), exec i s = .next t →
    ((t.regs.rotation, t.regs.width, t.regs.height) ≠ (s.regs.rotation, s.regs.width, s.regs.height) →
      ∃ r, i = .setRotation r) ∧
    ((t.regs.cursorX, t.regs.cursorY) ≠ (s.regs.cursorX, s.regs.cursorY) →
      (∃ x y, i = .setCursor x y) ∨ (∃ a n, i = .print a n) ∨ ∃ a n, i = .println a n) ∧
    ((t.regs.textFg, t.regs.useBg) ≠ (s.regs.textFg, s.regs.useBg) →
      (∃ fg, i = .setTextColor fg) ∨ ∃ fg bg, i = .setTextColorBg fg bg) ∧
    (t.regs.textBg ≠ s.regs.textBg → ∃ fg bg, i = .setTextColorBg fg bg) ∧
    (t.regs.textSize ≠ s.regs.textSize → ∃ z, i = .setTextSize z) ∧
    (t.regs.datum ≠ s.regs.datum → ∃ d, i = .setTextDatum d) ∧
    (t.regs.activeFont ≠ s.regs.activeFont → ∃ f, i = .setFreeFont f) ∧
    ((t.regs.slot2, t.regs.slot3, t.regs.slot4, t.regs.slot5) ≠
        (s.regs.slot2, s.regs.slot3, s.regs.slot4, s.regs.slot5) → ∃ k f, i = .setFontSlot k f) ∧
    (t.regs.result ≠ s.regs.result →
      (∃ r g b, i = .packRgb r g b) ∨ (∃ a n x y f, i = .drawString a n x y f) ∨
        ∃ a n x y f, i = .drawCentreString a n x y f)

/-- The engine's and the sink's invariants hold after reset (spec/10_state.md R25, R29, R36, R37; their clauses
that are the model's own are those of notes/assumptions/3.md, 4.md, 11.md, 14.md, 15.md, 16.md and 19.md), and
the sink conforms to the engine. The sink's state at reset is the model's choice (notes/assumptions/13.md): the
spec leaves it to the controller's initialisation. That the sink takes the lowest rotation whose byte it holds,
where bytes of `MADCTL_DATA` are equal, is its choice as well (notes/assumptions/24.md). -/
def Obligations.ResetMeetsTheInvariants : Prop :=
  EngineInv State.reset ∧ SinkInv State.reset.params State.reset.sink ∧ Conforming State.reset

/-- Every step keeps the engine's invariant: `WIDTH` and `HEIGHT` belong to `ROTATION`, `TEXT_SIZE` is not 0,
the chunk buffer keeps its size, no `Buf` is empty (spec/10_state.md R25, R29, R37, spec/20_memory.md R56).
Its other clauses are the model's own: `BUSY` is 1 exactly while transactions are pending and exactly while a
command is noted as running (notes/assumptions/4.md, a reading of spec/10_state.md R36), no more bytes of the
offered transaction are on the wire than it has (notes/assumptions/19.md), asset memory keeps its canonical
form (notes/assumptions/3.md); that a chunk buffer of `CHUNK_BYTES` bytes is there from reset on is
notes/assumptions/11.md. -/
def Obligations.StepKeepsEngineInv : Prop :=
  ∀ s t : State, EngineInv s → step s = .next t → EngineInv t

/-- Every step keeps the sink's invariant: frame memory keeps its canonical form within 153600 cells, and
an open stream stays in a window that lies on its rotation's panel. The frame memory, the window and the
pointer are those of spec/20_memory.md R70, R72 and R75; the canonical list of cells is the model's
(notes/assumptions/15.md), and that a stream opens only on a known rotation and a window on its panel is the
model's reading of what the spec leaves outside the contract (notes/assumptions/14.md, 16.md), and so is which
command it takes a byte for where command bytes are equal (notes/assumptions/24.md). -/
def Obligations.StepKeepsSinkInv : Prop :=
  ∀ s t : State, SinkInv s.params s.sink → step s = .next t → SinkInv t.params t.sink

/-- The engine never sends the display controller anything outside its contract: a sink that conforms to
the engine goes on conforming, whatever commands run and whatever the host writes. No over-full window, no
bound off the panel (spec/20_memory.md R77). Reset may fall at any byte: a partly filled window is harmless
(spec/70_reset_and_hazards.md R302), as long as the controller's rotation is the 0 that the engine assumes
after reset (R305). That the command bytes differ is the model's premise (notes/assumptions/24.md). -/
def Obligations.StepKeepsConformance : Prop :=
  ∀ s t : State, EngineInv s → s.params.distinct → Conforming s →
    (s.inputs.head? = some .reset → s.sink.rotation s.params = some 0) → step s = .next t →
    Conforming t

/-- Every window that a command emits has its bounds in order and on the panel, and is followed by exactly
as many pixel bytes as it needs; a command other than SET_ROTATION emits nothing else. For a rectangle at or
beyond the panel's right or bottom edge no window is emitted (spec/40_addressing_clipping.md R128). -/
def Obligations.EveryWindowIsOnThePanel : Prop :=
  (∀ (i : Instr) (s t : State), (∀ r, i ≠ .setRotation r) → exec i s = .next t →
    ∃ bs : List Burst, t.pending = s.pending ++ bs.flatMap (Burst.txns s.params) ∧
      ∀ b ∈ bs, b.ok s.panelWidth s.panelHeight) ∧
  ∀ (x y w h : Half) (c : Colour) (s : State),
    (s.panelWidth : Int) ≤ x.toInt ∨ (s.panelHeight : Int) ≤ y.toInt →
    exec (.fillRect x y w h c) s = .next s

/-- Neither the size of the chunk buffer nor what an earlier command left in it can be seen on the wire or
in a register, after any command (spec/10_state.md R37, spec/42_block_fill.md R173). -/
def Obligations.ChunkBufferIsInvisible : Prop :=
  ∀ (i : Instr) (s : State) (n : Nat) (buffer : List Byte), ∃ t u, exec i s = .next t ∧
    exec i { s with params := { s.params with chunkPairs := n }, chunk := buffer } = .next u ∧
    wire u.pending = wire t.pending ∧ u.regs = t.regs

/-! ### System commands -/

/-- NOP writes no register, no flag, and emits nothing (spec/45_system.md R270). -/
def Obligations.NopChangesNothing : Prop := ∀ s : State, exec .nop s = .next s

/-- SET_ROTATION writes the rotation and its width and height pair and emits the memory-access-control
command with the rotation's data byte, and does nothing else (spec/40_addressing_clipping.md R130). -/
def Obligations.SetRotationResult : Prop :=
  ∀ (r : BitVec 2) (s : State), exec (.setRotation r) s = .next
    { s with
        regs := { s.regs with
          rotation := r
          width := if r.toNat = 0 ∨ r.toNat = 2 then 320 else 480
          height := if r.toNat = 0 ∨ r.toNat = 2 then 480 else 320 }
        pending := s.pending ++ [.cmd s.params.cmdMadctl, .d8 (s.params.madctl r)] }

/-- PACK_RGB puts ((r >> 3) << 11) | ((g >> 2) << 5) | (b >> 3) into `RESULT` and does nothing else
(spec/45_system.md R272). -/
def Obligations.PackRgbResult : Prop :=
  ∀ (r g b : Byte) (s : State), exec (.packRgb r g b) s = .next
    { s with
        regs := { s.regs with
          result := BitVec.ofNat 32 (r.toNat / 8 * 2048 + g.toNat / 4 * 32 + b.toNat / 8) } }

/-- Packing the channels that a packed colour is expanded to gives the colour back (R273). -/
def Obligations.RepackingIsIdempotent : Prop :=
  ∀ (c : Colour) (s : State),
    exec (.packRgb (c.extractLsb' 11 5 ++ 0#3) (c.extractLsb' 5 6 ++ 0#2) (c.extractLsb' 0 5 ++ 0#3)) s =
      .next { s with regs := { s.regs with result := c.setWidth 32 } }

/-! ### Clipping, primitives and fills -/

/-- `clip` keeps a rectangle whose origin is on the panel and which is not empty, truncated on the right and
at the bottom, and skips every other (spec/40_addressing_clipping.md R126). -/
def Obligations.ClipResult : Prop :=
  ∀ (width height : Nat) (x y : Int) (w h : Nat), clip width height x y w h =
    if 0 ≤ x ∧ x < width ∧ 0 ≤ y ∧ y < height ∧ 0 < w ∧ 0 < h then
      some ⟨x.toNat, y.toNat, min w (width - x.toNat), min h (height - y.toNat)⟩
    else none

/-- DRAW_PIXEL emits a 1 × 1 window and one colour value for a position on the panel, and does nothing for
any other (spec/41_primitives.md R142). -/
def Obligations.DrawPixelResult : Prop :=
  ∀ (x y : Half) (c : Colour) (s : State),
    (0 ≤ x.toInt ∧ x.toInt < s.regs.width.toNat ∧ 0 ≤ y.toInt ∧ y.toInt < s.regs.height.toNat →
      exec (.drawPixel x y c) s = .next { s with pending := s.pending ++
        [.cmd s.params.cmdCaset, .d32 (x ++ x), .cmd s.params.cmdPaset, .d32 (y ++ y),
          .cmd s.params.cmdRamwr, .d16 c] }) ∧
    (¬(0 ≤ x.toInt ∧ x.toInt < s.regs.width.toNat ∧ 0 ≤ y.toInt ∧ y.toInt < s.regs.height.toNat) →
      exec (.drawPixel x y c) s = .next s)

/-- FILL_RECT of a clipped rectangle: one window, its bounds inclusive and high byte first
(spec/40_addressing_clipping.md R124, spec/20_memory.md R58), then every pixel of it once, high byte first, whatever the
chunk size; 5 + ceil(total / `CHUNK_BYTES`) transactions and 11 + total wire bytes. A skipped rectangle
changes nothing (spec/42_block_fill.md R174). That the whole chunk buffer holds the colour afterwards is the
model's choice (notes/assumptions/11.md): by R172 the hardware may load only the bytes it sends, and U2 leaves
the contents between fills open. -/
def Obligations.FillRectOnTheWire : Prop :=
  ∀ (x y w h : Half) (c : Colour) (s : State),
    (clip s.panelWidth s.panelHeight x.toInt y.toInt w.toNat h.toNat = none →
      exec (.fillRect x y w h c) s = .next s) ∧
    ∀ q, clip s.panelWidth s.panelHeight x.toInt y.toInt w.toNat h.toNat = some q →
      ∃ t, exec (.fillRect x y w h c) s = .next t ∧
        t = { s with pending := t.pending, chunk := pattern (s.params.chunkPairs + 1) c } ∧
        s.pending <+: t.pending ∧
        wire t.pending = wire s.pending ++
          [(.c, s.params.cmdCaset), (.d, BitVec.ofNat 8 (q.x / 256)), (.d, BitVec.ofNat 8 q.x),
            (.d, BitVec.ofNat 8 ((q.x + q.w - 1) / 256)), (.d, BitVec.ofNat 8 (q.x + q.w - 1)),
            (.c, s.params.cmdPaset), (.d, BitVec.ofNat 8 (q.y / 256)), (.d, BitVec.ofNat 8 q.y),
            (.d, BitVec.ofNat 8 ((q.y + q.h - 1) / 256)), (.d, BitVec.ofNat 8 (q.y + q.h - 1)),
            (.c, s.params.cmdRamwr)] ++ pixelBytes (q.w * q.h) c ∧
        t.pending.length = s.pending.length + 5 +
          (q.w * q.h * 2 + s.params.chunkBytes - 1) / s.params.chunkBytes ∧
        (wire t.pending).length = (wire s.pending).length + 11 + q.w * q.h * 2

/-- DRAW_RECT is four fills of full-length sides in the order top, bottom, left, right, each clipped on its
own; an empty rectangle changes nothing (spec/41_primitives.md R148). -/
def Obligations.DrawRectIsFourFills : Prop :=
  ∀ (x y w h : Half) (c : Colour) (s : State),
    exec (.drawRect x y w h c) s = .next
      (if w.toNat = 0 ∨ h.toNat = 0 then s
       else (((s.fill x.toInt y.toInt w.toNat 1 c).fill
          x.toInt (y.toInt + h.toNat - 1) w.toNat 1 c).fill
          x.toInt y.toInt 1 h.toNat c).fill
          (x.toInt + w.toNat - 1) y.toInt 1 h.toNat c)

/-- DRAW_LINE from a to b and from b to a do the same (R145 (c)). -/
def Obligations.DrawLineIsSymmetric : Prop :=
  ∀ (x0 y0 x1 y1 : Half) (c : Colour) (s : State),
    exec (.drawLine x0 y0 x1 y1 c) s = exec (.drawLine x1 y1 x0 y0 c) s

/-- DRAW_LINE: a vertical line or a single point is one fill, a horizontal line is one fill, and a sloped
line is one pixel for each value of the major coordinate, whose minor coordinate is the rounded one: after n
steps of the major coordinate the minor one has moved by ceil((n * dy - dx div 2) / dx). The sloped forms
are written for increasing major coordinate; `DrawLineIsSymmetric` gives the others (R144). -/
def Obligations.DrawLineResult : Prop :=
  ∀ (x0 y0 x1 y1 : Half) (c : Colour) (s : State),
    (x0 = x1 → exec (.drawLine x0 y0 x1 y1 c) s = .next
      (s.fill x0.toInt (min y0.toInt y1.toInt) 1 ((y1.toInt - y0.toInt).natAbs + 1) c)) ∧
    (x0 ≠ x1 → y0 = y1 → exec (.drawLine x0 y0 x1 y1 c) s = .next
      (s.fill (min x0.toInt x1.toInt) y0.toInt ((x1.toInt - x0.toInt).natAbs + 1) 1 c)) ∧
    (x0.toInt < x1.toInt → y0 ≠ y1 → |y1.toInt - y0.toInt| ≤ x1.toInt - x0.toInt →
      exec (.drawLine x0 y0 x1 y1 c) s = .next
        (s.drawAll ((List.range ((x1.toInt - x0.toInt).toNat + 1)).map fun (n : Nat) =>
          .pixel (x0.toInt + n)
            (y0.toInt + (if y0.toInt < y1.toInt then 1 else -1) *
              ((n * |y1.toInt - y0.toInt| - (x1.toInt - x0.toInt) / 2 + (x1.toInt - x0.toInt) - 1) /
                (x1.toInt - x0.toInt))) c))) ∧
    (y0.toInt < y1.toInt → x0 ≠ x1 → |x1.toInt - x0.toInt| < y1.toInt - y0.toInt →
      exec (.drawLine x0 y0 x1 y1 c) s = .next
        (s.drawAll ((List.range ((y1.toInt - y0.toInt).toNat + 1)).map fun (n : Nat) =>
          .pixel
            (x0.toInt + (if x0.toInt < x1.toInt then 1 else -1) *
              ((n * |x1.toInt - x0.toInt| - (y1.toInt - y0.toInt) / 2 + (y1.toInt - y0.toInt) - 1) /
                (y1.toInt - y0.toInt)))
            (y0.toInt + n) c)))

/-- DRAW_LINE, DRAW_RECT, DRAW_CIRCLE and FILL_CIRCLE emit, in order, what each call of their rasterizer
emits on its own after clipping; they write no register, and the outline of a circle leaves the chunk buffer
alone as well (R140, R153, R156, spec/42_block_fill.md R170). A circle's calls are the four cardinal points,
then eight symmetric points for each step of the midpoint iteration while x < y (R153); a filled circle's are
the central span, then four spans for each of those steps (R156). -/
def Obligations.PrimitivesEmitEachCallClipped : Prop :=
  (∀ (x0 y0 : Int) (r : Nat) (c : Colour), ∃ N : Nat,
    (∀ n < N, (Midpoint.step^[n] (Midpoint.init r)).x < (Midpoint.step^[n] (Midpoint.init r)).y) ∧
    (Midpoint.step^[N] (Midpoint.init r)).y ≤ (Midpoint.step^[N] (Midpoint.init r)).x ∧
    circle x0 y0 r c =
      [.pixel x0 (y0 + r) c, .pixel x0 (y0 - r) c, .pixel (x0 + r) y0 c, .pixel (x0 - r) y0 c] ++
      ((List.range N).map fun (n : Nat) => Midpoint.step^[n + 1] (Midpoint.init r)).flatMap (fun m =>
        [.pixel (x0 + m.x) (y0 + m.y) c, .pixel (x0 - m.x) (y0 + m.y) c,
          .pixel (x0 + m.x) (y0 - m.y) c, .pixel (x0 - m.x) (y0 - m.y) c,
          .pixel (x0 + m.y) (y0 + m.x) c, .pixel (x0 - m.y) (y0 + m.x) c,
          .pixel (x0 + m.y) (y0 - m.x) c, .pixel (x0 - m.y) (y0 - m.x) c]) ∧
    filledCircle x0 y0 r c =
      [.fill x0 (y0 - r) 1 (2 * r + 1) c] ++
      ((List.range N).map fun (n : Nat) => Midpoint.step^[n + 1] (Midpoint.init r)).flatMap (fun m =>
        [.fill (x0 + m.x) (y0 - m.y) 1 (2 * m.y + 1).toNat c,
          .fill (x0 + m.y) (y0 - m.x) 1 (2 * m.x + 1).toNat c,
          .fill (x0 - m.x) (y0 - m.y) 1 (2 * m.y + 1).toNat c,
          .fill (x0 - m.y) (y0 - m.x) 1 (2 * m.x + 1).toNat c])) ∧
  ∀ (s : State) (x0 y0 x1 y1 w h r : Half) (c : Colour),
    (∃ t, exec (.drawLine x0 y0 x1 y1 c) s = .next t ∧
      t = { s with pending := t.pending, chunk := t.chunk } ∧
      t.pending = s.pending ++
        (line x0.toInt y0.toInt x1.toInt y1.toInt c).flatMap (Request.txns s)) ∧
    (∃ t, exec (.drawRect x0 y0 w h c) s = .next t ∧
      t = { s with pending := t.pending, chunk := t.chunk } ∧
      t.pending = s.pending ++
        (rectOutline x0.toInt y0.toInt w.toNat h.toNat c).flatMap (Request.txns s)) ∧
    exec (.drawCircle x0 y0 r c) s = .next
      { s with
          pending := s.pending ++ (circle x0.toInt y0.toInt r.toNat c).flatMap (Request.txns s) } ∧
    ∃ t, exec (.fillCircle x0 y0 r c) s = .next t ∧
      t = { s with pending := t.pending, chunk := t.chunk } ∧
      t.pending = s.pending ++
        (filledCircle x0.toInt y0.toInt r.toNat c).flatMap (Request.txns s)

/-- The midpoint iteration in closed form: it starts at y = r; after n steps x is n and the decision variable
is (x + 1)² + y² - y - r²; the next step lowers y by 1 exactly if that is at least 0 (R152). -/
def Obligations.MidpointClosedForm : Prop :=
  ∀ r n : Nat,
    (Midpoint.init r).y = r ∧
    (Midpoint.step^[n + 1] (Midpoint.init r)).y =
      (if (r : Int) ^ 2 ≤ ((n : Int) + 1) ^ 2 + (Midpoint.step^[n] (Midpoint.init r)).y ^ 2 -
          (Midpoint.step^[n] (Midpoint.init r)).y then
        (Midpoint.step^[n] (Midpoint.init r)).y - 1
      else (Midpoint.step^[n] (Midpoint.init r)).y) ∧
    (Midpoint.step^[n] (Midpoint.init r)).x = n ∧
    (Midpoint.step^[n] (Midpoint.init r)).ddx = 2 * n + 1 ∧
    (Midpoint.step^[n] (Midpoint.init r)).ddy = -2 * (Midpoint.step^[n] (Midpoint.init r)).y ∧
    (Midpoint.step^[n] (Midpoint.init r)).f =
      ((n : Int) + 1) ^ 2 + (Midpoint.step^[n] (Midpoint.init r)).y ^ 2 -
        (Midpoint.step^[n] (Midpoint.init r)).y - (r : Int) ^ 2

/-- The circle loop runs every step of the midpoint iteration while x < y, and no other (R152): its points are
those after steps 1 to N, N being the first number of steps after which y is at most x. It never ends because
its bound of r steps is used up, and for every 16-bit radius it ends within 46341 steps (R154). -/
def Obligations.CircleLoopTerminates : Prop :=
  (∀ r n : Nat, r ≤ n → circleSteps n (Midpoint.init r) = circleSteps r (Midpoint.init r)) ∧
  (∀ r : Nat, ∃ N ≤ r,
    (∀ n < N, (Midpoint.step^[n] (Midpoint.init r)).x < (Midpoint.step^[n] (Midpoint.init r)).y) ∧
    (Midpoint.step^[N] (Midpoint.init r)).y ≤ (Midpoint.step^[N] (Midpoint.init r)).x ∧
    circleSteps r (Midpoint.init r) = (List.range N).map fun (n : Nat) =>
      ((Midpoint.step^[n + 1] (Midpoint.init r)).x, (Midpoint.step^[n + 1] (Midpoint.init r)).y)) ∧
  (∀ (r : Nat) (p : Int × Int), (circleSteps r (Midpoint.init r)).getLast? = some p → p.2 ≤ p.1) ∧
  ∀ r : Nat, r ≤ 65535 → (circleSteps r (Midpoint.init r)).length ≤ 46341

/-- Every point of a circle's outline lies in a span of the filled circle with the same centre and radius
(R157 (a)). -/
def Obligations.FilledCircleCoversOutline : Prop :=
  ∀ (x0 y0 px py : Int) (r : Nat) (c : Colour), Request.pixel px py c ∈ circle x0 y0 r c →
    ∃ (top : Int) (h : Nat), Request.fill px top 1 h c ∈ filledCircle x0 y0 r c ∧
      top ≤ py ∧ py < top + h

/-! ### Bitmaps and glyphs -/

/-- DRAW_BITMAP_BG visits every pixel of the box once, row by row, and writes the colour of its bit, each
pixel clipped on its own; DRAW_BITMAP writes only the set bits; neither writes a register or the chunk
buffer, and source rows are padded to whole bytes (spec/43_glyph.md R204 to R206, spec/20_memory.md R68). -/
def Obligations.BlitResult : Prop :=
  ∀ (x y addr w h : Half) (c bg : Colour) (s : State),
    exec (.drawBitmapBg x y addr w h c bg) s = .next
      (s.emit ((List.range (w.toNat * h.toNat)).flatMap fun (k : Nat) =>
        (Request.pixel (x.toInt + (k % w.toNat : Nat)) (y.toInt + (k / w.toNat : Nat))
          (if s.blitBit addr.toNat w.toNat (k % w.toNat) (k / w.toNat) then c else bg)).txns s)) ∧
    exec (.drawBitmap x y addr w h c) s = .next
      (s.emit ((List.range (w.toNat * h.toNat)).flatMap fun (k : Nat) =>
        if s.blitBit addr.toNat w.toNat (k % w.toNat) (k / w.toNat) then
          (Request.pixel (x.toInt + (k % w.toNat : Nat)) (y.toInt + (k / w.toNat : Nat)) c).txns s
        else []))

/-- A variable-font glyph at scale 1 (R185): with `USE_BG` set the box is filled with the background first
(R196); then come the maximal runs of set bits, row by row and from left to right, each as one fill (R197).
The runs paint exactly the pixels of a naive per-pixel rasterization, for every glyph whose box starts at or
right of column 0 and at or below row 0 (R198; at the left and top edges whole runs are skipped,
spec/90_conflicts.md C9). -/
def Obligations.RunLengthEquivalence : Prop :=
  ∀ (s : State) (ch f : Nat) (g : Glyph), s.regs.activeFont ≠ 0 → s.regs.textSize = 1 →
    f = s.regs.activeFont.toNat → g = s.glyphOf f ch →
    ∃ spans : List Request,
      s.glyphRequests ch =
        (if s.regs.useBg = true then
          [.fill (s.regs.cursorX.toInt + g.xOffset) (s.regs.cursorY.toInt + g.yOffset)
            g.width g.height s.regs.textBg]
        else []) ++ spans ∧
      (spans = (List.range g.height).flatMap fun (yy : Nat) =>
        ((List.range g.width).filter fun (xx : Nat) => s.glyphBit f g (yy * g.width + xx) &&
            (xx == 0 || !s.glyphBit f g (yy * g.width + (xx - 1)))).map fun (xx : Nat) =>
          .fill (s.regs.cursorX.toInt + g.xOffset + xx) (s.regs.cursorY.toInt + g.yOffset + yy)
            ((List.range (g.width - xx)).takeWhile fun (k : Nat) =>
              s.glyphBit f g (yy * g.width + (xx + k))).length 1 s.regs.textFg) ∧
      (0 ≤ s.regs.cursorX.toInt + g.xOffset → 0 ≤ s.regs.cursorY.toInt + g.yOffset →
        ∀ (px py : Nat) (c : Colour), paintsSome s.panelWidth s.panelHeight spans px py c ↔
          c = s.regs.textFg ∧ px < s.panelWidth ∧ py < s.panelHeight ∧
            ∃ xx < g.width, ∃ yy < g.height, s.glyphBit f g (yy * g.width + xx) = true ∧
              (px : Int) = s.regs.cursorX.toInt + g.xOffset + xx ∧
              (py : Int) = s.regs.cursorY.toInt + g.yOffset + yy)

/-- What a fixed-font glyph draws, in order: the 5 × 8 positions of its cell, columns outer and rows inner,
never the spacing column; the foreground if the column byte's bit is set, the background if it is clear and
`USE_BG` is set, as a pixel at scale 1 and as a block at any other. That makes exactly 40 calls with
`USE_BG` set, and one for each set bit without (R187 to R190). -/
def Obligations.FixedGlyphPositions : Prop :=
  ∀ (s : State) (ch : Nat) (call : Nat → Colour → Request), s.regs.activeFont = 0 →
    (∀ n c, call n c =
      if s.regs.textSize = 1 then
        .pixel (s.regs.cursorX.toInt + (n / 8 : Nat)) (s.regs.cursorY.toInt + (n % 8 : Nat)) c
      else .fill (s.regs.cursorX.toInt + (n / 8 : Nat) * s.regs.textSize.toNat)
        (s.regs.cursorY.toInt + (n % 8 : Nat) * s.regs.textSize.toNat)
        s.regs.textSize.toNat s.regs.textSize.toNat c) →
    (s.glyphRequests ch = (List.range 40).flatMap fun (n : Nat) =>
      if s.fixedBit ch (n / 8) (n % 8) = true then [call n s.regs.textFg]
      else if s.regs.useBg = true then [call n s.regs.textBg] else []) ∧
    (s.glyphRequests ch).length =
      if s.regs.useBg = true then 40
      else ((List.range 40).filter fun (n : Nat) => s.fixedBit ch (n / 8) (n % 8)).length

/-- What a variable-font glyph draws at a scale other than 1, in order: one block for each position of its
bitmap, row by row, the foreground for a set bit, the background for a clear bit if `USE_BG` is set
(R185, R199). -/
def Obligations.ScaledVariableGlyphPositions : Prop :=
  ∀ (s : State) (ch : Nat) (f : Nat) (g : Glyph) (call : Nat → Colour → Request),
    s.regs.activeFont ≠ 0 → s.regs.textSize ≠ 1 → f = s.regs.activeFont.toNat → g = s.glyphOf f ch →
    (∀ k c, call k c =
      .fill (s.regs.cursorX.toInt + (g.xOffset + (k % g.width : Nat)) * s.regs.textSize.toNat)
        (s.regs.cursorY.toInt + (g.yOffset + (k / g.width : Nat)) * s.regs.textSize.toNat)
        s.regs.textSize.toNat s.regs.textSize.toNat c) →
    s.glyphRequests ch = (List.range (g.width * g.height)).flatMap fun (k : Nat) =>
      if s.glyphBit f g k = true then [call k s.regs.textFg]
      else if s.regs.useBg = true then [call k s.regs.textBg] else []

/-- The layouts of asset memory and of the ROM, written out over single bytes: a string is consecutive bytes;
a font header is bitmap base, glyph base, first code, last code, line advance; a glyph record has its fields
at offsets 0 to 6 of eight bytes, the two offsets signed; bitmaps run from the most significant bit on, glyph
rows unpadded, blit rows padded to whole bytes; a fixed glyph is five column bytes, bit 0 on top
(spec/20_memory.md R64 to R69, spec/43_glyph.md R186). -/
def Obligations.AssetLayouts : Prop :=
  ∀ (s : State) (f ch : Nat),
    (∀ addr len, s.characters addr len = (List.range len).map fun (i : Nat) => s.asset8 (addr + i)) ∧
    (s.bitmapBase f, s.glyphBase f) =
      (s.asset8 f * 256 + s.asset8 (f + 1), s.asset8 (f + 2) * 256 + s.asset8 (f + 3)) ∧
    (s.firstCode f, s.lastCode f, s.yAdvance f) = (s.asset8 (f + 4), s.asset8 (f + 5), s.asset8 (f + 6)) ∧
    (∀ a, s.asset8 (f + 4) ≤ ch → a = s.glyphBase f + (ch - s.asset8 (f + 4)) * 8 →
      s.glyphOf f ch =
        { bitmapOffset := s.asset8 a * 256 + s.asset8 (a + 1)
          width := s.asset8 (a + 2)
          height := s.asset8 (a + 3)
          xAdvance := s.asset8 (a + 4)
          xOffset := (s.asset8 (a + 5) : Int) - (if s.asset8 (a + 5) < 128 then 0 else 256)
          yOffset := (s.asset8 (a + 6) : Int) - (if s.asset8 (a + 6) < 128 then 0 else 256) }) ∧
    (∀ g k, s.glyphBit f g k = true ↔
      s.asset8 (s.bitmapBase f + g.bitmapOffset + k / 8) / 2 ^ (7 - k % 8) % 2 = 1) ∧
    (∀ addr w i j, s.blitBit addr w i j = true ↔
      s.asset8 (addr + j * ((w + 7) / 8) + i / 8) / 2 ^ (7 - i % 8) % 2 = 1) ∧
    ∀ i < 5, ∀ j < 8, s.fixedBit ch i j = true ↔
      (s.params.fixedFontRom.toList[(if 32 ≤ ch ∧ ch ≤ 126 then ch - 32 else 0) * 5 + i]?.getD 0).toNat /
        2 ^ j % 2 = 1

/-- With the fixed font every code is drawable, with a variable font exactly the codes from its first to its
last (R192). A character outside its font: the fixed font puts the space in its place, a variable font skips it and
the cursor stays where it is (R186, R192, spec/44_text.md R235). -/
def Obligations.CharactersOutsideTheFont : Prop :=
  ∀ (s : State) (ch : Nat),
    (s.regs.activeFont = 0 → s.drawable ch = true) ∧
    (s.regs.activeFont ≠ 0 → (s.drawable ch = true ↔
      s.asset8 (s.regs.activeFont.toNat + 4) ≤ ch ∧ ch ≤ s.asset8 (s.regs.activeFont.toNat + 5))) ∧
    (s.regs.activeFont = 0 → ch < 32 ∨ 126 < ch → s.putChar ch = s.putChar 32) ∧
    (s.regs.activeFont ≠ 0 →
      ch < s.asset8 (s.regs.activeFont.toNat + 4) ∨ s.asset8 (s.regs.activeFont.toNat + 5) < ch →
      s.putChar ch = s)

/-! ### Text -/

/-- SET_CURSOR stores its operands and does nothing else (R225). -/
def Obligations.SetCursorResult : Prop :=
  ∀ (x y : Half) (s : State), exec (.setCursor x y) s =
    .next { s with regs := { s.regs with cursorX := x, cursorY := y } }

/-- SET_TEXT_COLOR writes the foreground and clears `USE_BG`, the stored background staying as it is;
SET_TEXT_COLOR_BG writes both colours and sets `USE_BG`, equal colours included (R226, R227). -/
def Obligations.TextColourResults : Prop :=
  ∀ (fg bg : Colour) (s : State),
    exec (.setTextColor fg) s = .next { s with regs := { s.regs with textFg := fg, useBg := false } } ∧
    exec (.setTextColorBg fg bg) s =
      .next { s with regs := { s.regs with textFg := fg, textBg := bg, useBg := true } }

/-- SET_TEXT_SIZE stores max(s, 1) and does nothing else; only the low byte of slot A counts (R228). -/
def Obligations.TextSizeIsClamped : Prop :=
  (∀ (z : Byte) (s : State), exec (.setTextSize z) s =
    .next { s with regs := { s.regs with textSize := BitVec.ofNat 8 (max z.toNat 1) } }) ∧
  ∀ high low : Byte, decode (pack 0x23#8 (high ++ low) 0 0 0 0 0 0) = .ok (.setTextSize low)

/-- SET_TEXT_DATUM and SET_FREE_FONT store their operand as given, whatever it is (R229, R230). -/
def Obligations.DatumAndFontAreStored : Prop :=
  ∀ (d : Byte) (f : Half) (s : State),
    exec (.setTextDatum d) s = .next { s with regs := { s.regs with datum := d } } ∧
    exec (.setFreeFont f) s = .next { s with regs := { s.regs with activeFont := f } }

/-- SET_FONT_SLOT writes the slot of its index for indices 2 to 5 and does nothing for any other (R232). -/
def Obligations.FontSlotIsWritten : Prop :=
  ∀ (k : Byte) (f : Half) (s : State), exec (.setFontSlot k f) s = .next { s with
    regs := { s.regs with slot2 := if k.toNat = 2 then f else s.regs.slot2,
                          slot3 := if k.toNat = 3 then f else s.regs.slot3,
                          slot4 := if k.toNat = 4 then f else s.regs.slot4,
                          slot5 := if k.toNat = 5 then f else s.regs.slot5 } }

/-- PRINT writes only the cursor among the registers; a string without a newline moves it right by the
advances of its drawable characters, added up and wrapped to 16 bits, and not down (R235, R236). -/
def Obligations.PrintResult : Prop :=
  ∀ (addr : Half) (len : Byte) (s : State), ∃ t, exec (.print addr len) s = .next t ∧
    t = { s with pending := t.pending, chunk := t.chunk,
                 regs := { s.regs with cursorX := t.regs.cursorX, cursorY := t.regs.cursorY } } ∧
    s.pending <+: t.pending ∧
    (0x0A ∉ s.characters addr.toNat len.toNat →
      t.regs.cursorX = wrapS16 (s.regs.cursorX.toInt + s.advanceSum (s.characters addr.toNat len.toNat)) ∧
      t.regs.cursorY = s.regs.cursorY)

/-- PRINT, character by character: PRINT of no character does nothing, and PRINT of n + 1 characters is PRINT
of the first n followed by the last. A newline code moves the cursor to column 0 and down by the line
advance; a drawable character is drawn at the cursor, which then moves right by its advance; a character
outside the active font changes nothing (R234, R235, R236). -/
def Obligations.PrintOneCharacter : Prop :=
  ∀ (addr : Half) (s : State), exec (.print addr 0) s = .next s ∧
    ∀ n < 255, ∃ u t, exec (.print addr (BitVec.ofNat 8 n)) s = .next u ∧
      exec (.print addr (BitVec.ofNat 8 (n + 1))) s = .next t ∧
      (s.asset8 (addr.toNat + n) = 0x0A → t = { u with
        regs := { u.regs with
          cursorX := 0
          cursorY := wrapS16 (u.regs.cursorY.toInt +
            (if s.regs.activeFont = 0 then 8 else s.asset8 (s.regs.activeFont.toNat + 6)) *
              s.regs.textSize.toNat) } }) ∧
      (s.asset8 (addr.toNat + n) ≠ 0x0A → s.drawable (s.asset8 (addr.toNat + n)) = true → t = { u with
        pending := u.pending ++
          (u.glyphRequests (s.asset8 (addr.toNat + n))).flatMap (Request.txns s)
        chunk := t.chunk
        regs := { u.regs with
          cursorX := wrapS16 (u.regs.cursorX.toInt + s.advance (s.asset8 (addr.toNat + n))) } }) ∧
      (s.asset8 (addr.toNat + n) ≠ 0x0A → s.drawable (s.asset8 (addr.toNat + n)) = false → t = u)

/-- PRINTLN is PRINT, then a newline: the cursor goes to column 0 and down by the font's line advance,
wrapped to 16 bits (R234, R238, spec/10_state.md R31); PRINT of the single code 0x0A does the same, whatever
the font covers (R236). -/
def Obligations.NewlineResult : Prop :=
  (∀ (addr : Half) (len : Byte) (s : State), ∃ u, exec (.print addr len) s = .next u ∧
    exec (.println addr len) s = .next { u with
      regs := { u.regs with
        cursorX := 0
        cursorY := wrapS16 (u.regs.cursorY.toInt +
          (if s.regs.activeFont = 0 then 8 else s.asset8 (s.regs.activeFont.toNat + 6)) *
            s.regs.textSize.toNat) } }) ∧
  ∀ (addr : Half) (s : State), s.characters addr.toNat 1 = [0x0A] →
    exec (.print addr 1) s = exec (.println addr 0) s

/-- DRAW_STRING and DRAW_CENTRE_STRING leave every register as it was (R242) but `RESULT`, which becomes the
advances of the drawable characters under the selected font, added up (R254, R258, R255 (a)); that sum fits
32 bits (R222). -/
def Obligations.StringCommandsRestoreAndReturnWidth : Prop :=
  ∀ (addr : Half) (len : Byte) (x y sel : Half) (s : State) (i : Instr),
    i = .drawString addr len x y sel ∨ i = .drawCentreString addr len x y sel →
    (s.selectFont sel.toNat).advanceSum (s.characters addr.toNat len.toNat) ≤ 16581375 ∧
    ∃ t, exec i s = .next t ∧
      t = { s with
              pending := t.pending
              chunk := t.chunk
              regs := s.regs.setResult (BitVec.ofNat 32
                ((s.selectFont sel.toNat).advanceSum (s.characters addr.toNat len.toNat))) } ∧
      s.pending <+: t.pending

/-- Under the fixed font a string measures 6 × size × length by 8 × size, codes out of range included; that
width is what a string command returns, and the ascent is not used (R245). Every code advances the cursor by
6 × size (spec/43_glyph.md R193). -/
def Obligations.FixedFontMetrics : Prop :=
  ∀ (addr : Half) (len : Byte) (x y : Half) (s : State),
    (∀ ch, (s.selectFont 1).advance ch = 6 * s.regs.textSize.toNat) ∧
    ((s.selectFont 1).measure (s.characters addr.toNat len.toNat)).width =
      6 * s.regs.textSize.toNat * len.toNat ∧
    ((s.selectFont 1).measure (s.characters addr.toNat len.toNat)).height = 8 * s.regs.textSize.toNat ∧
    (∃ t, exec (.drawString addr len x y 1) s = .next t ∧
      t.regs.result.toNat = 6 * s.regs.textSize.toNat * len.toNat) ∧
    ∀ (ax ay : Int) (m : Metrics) (ascent : Int),
      (s.selectFont 1).anchor ax ay { m with ascent := ascent } = (s.selectFont 1).anchor ax ay m

/-- DRAW_STRING draws the glyphs of its drawable characters under the selected font, each at the anchored
origin moved right by the advances of the drawable characters before it, whatever the font (R253, R254).
Under the fixed font that is the anchored origin plus i times the pitch: the origin is x shifted left by
nothing, half the width or the width, and y shifted by half the height for the middle class only, in the
direction of `FIXED_MIDDLE_SIGN` (R250, R252). A newline code is a character as any other. -/
def Obligations.DrawStringPlacesItsGlyphs : Prop :=
  (∀ (addr : Half) (len : Byte) (x y sel : Half) (s f : State) (o : Int × Int),
    f = s.selectFont sel.toNat →
    o = f.anchor x.toInt y.toInt (f.measure (s.characters addr.toNat len.toNat)) →
    ∃ t, exec (.drawString addr len x y sel) s = .next t ∧
      t.pending = s.pending ++ (List.range len.toNat).flatMap fun (i : Nat) =>
        if f.drawable (s.asset8 (addr.toNat + i)) = true then
          (State.glyphRequests
            { f with
              regs := f.regs.setCursor (o.1 + f.advanceSum (s.characters addr.toNat i)) o.2 }
            (s.asset8 (addr.toNat + i))).flatMap (Request.txns s)
        else []) ∧
  ∀ (addr : Half) (len : Byte) (x y : Half) (s : State) (ox oy : Int),
    ox = x.toInt - (s.regs.datum.toNat % 3 : Nat) * (3 * s.regs.textSize.toNat * len.toNat : Nat) →
    oy = y.toInt + (if s.regs.datum.toNat / 3 = 1 then
      s.params.fixedMiddleSign * (4 * s.regs.textSize.toNat : Nat) else 0) →
    ∃ t, exec (.drawString addr len x y 1) s = .next t ∧
      t.pending = s.pending ++ (List.range len.toNat).flatMap fun (i : Nat) =>
        (State.glyphRequests
          { s with regs := (s.regs.setFont 0).setCursor (ox + i * (6 * s.regs.textSize.toNat : Nat)) oy }
          (s.asset8 (addr.toNat + i))).flatMap (Request.txns s)

/-- Under a variable font a drawable character's advance is the `xAdvance` of its record times `TEXT_SIZE`
(spec/43_glyph.md R193), a string's width is the advances of its drawable characters, its ascent what the
highest glyph reaches above the baseline, its height the distance from there to the lowest glyph's end, all
times `TEXT_SIZE`; a string with no drawable character has all three 0 (R244, R246, R247). The anchor shifts x
left by nothing, half the width or the width, and y by the ascent for the top class, by the ascent less half
the height for the middle class, by nothing for any other (R250, R251). -/
def Obligations.VariableFontMetricsAndAnchor : Prop :=
  ∀ (s : State) (chs : List Nat) (f : Nat), s.regs.activeFont ≠ 0 → f = s.regs.activeFont.toNat →
    (∀ ch, s.drawable ch = true →
      s.advance ch = (s.glyphOf f ch).xAdvance * s.regs.textSize.toNat) ∧
    (s.measure chs).width = s.advanceSum chs ∧
    ((∀ ch ∈ chs, s.drawable ch = false) → s.measure chs = ⟨0, 0, 0⟩) ∧
    (∀ lo hi : Int,
      (∃ ch ∈ chs, s.drawable ch = true ∧ (s.glyphOf f ch).yOffset = lo) →
      (∀ ch ∈ chs, s.drawable ch = true → lo ≤ (s.glyphOf f ch).yOffset) →
      (∃ ch ∈ chs, s.drawable ch = true ∧ (s.glyphOf f ch).yOffset + (s.glyphOf f ch).height = hi) →
      (∀ ch ∈ chs, s.drawable ch = true → (s.glyphOf f ch).yOffset + (s.glyphOf f ch).height ≤ hi) →
      (s.measure chs).ascent = -lo * s.regs.textSize.toNat ∧
        (s.measure chs).height = (hi - lo) * s.regs.textSize.toNat) ∧
    ∀ (x y : Int) (m : Metrics), s.anchor x y m =
      (x - (if s.regs.datum.toNat % 3 = 0 then 0
        else if s.regs.datum.toNat % 3 = 1 then m.width / 2 else m.width : Nat),
       if s.regs.datum.toNat / 3 = 0 then y + m.ascent
       else if s.regs.datum.toNat / 3 = 1 then y + m.ascent - m.height / 2 else y)

/-- DRAW_CENTRE_STRING is DRAW_STRING with x shifted left by half the width measured under the selected
font (R258); a shifted x outside the 16-bit coordinates is written wrapped, since the origin is wrapped into
the cursor in both commands (spec/10_state.md R31). -/
def Obligations.CentreStringForwards : Prop :=
  ∀ (addr : Half) (len : Byte) (x y sel : Half) (s : State),
    exec (.drawCentreString addr len x y sel) s =
      exec (.drawString addr len (BitVec.ofInt 16 (x.toInt -
        ((s.selectFont sel.toNat).advanceSum (s.characters addr.toNat len.toNat) / 2 : Nat))) y sel) s

/-- The font selection policy: 0 keeps the current font, 1 forces the fixed font, 2 to 5 take their slot
(an empty one holds 0, the fixed font), any other value falls back to the fixed font (R240). -/
def Obligations.FontSelectionPolicy : Prop :=
  ∀ s : State, s.selectFont 0 = s ∧
    s.selectFont 1 = { s with regs := { s.regs with activeFont := 0 } } ∧
    s.selectFont 2 = { s with regs := { s.regs with activeFont := s.regs.slot2 } } ∧
    s.selectFont 3 = { s with regs := { s.regs with activeFont := s.regs.slot3 } } ∧
    s.selectFont 4 = { s with regs := { s.regs with activeFont := s.regs.slot4 } } ∧
    s.selectFont 5 = { s with regs := { s.regs with activeFont := s.regs.slot5 } } ∧
    ∀ (addr : Half) (len : Byte) (x y sel : Half), 5 < sel.toNat →
      exec (.drawString addr len x y sel) s = exec (.drawString addr len x y 1) s ∧
      exec (.drawCentreString addr len x y sel) s = exec (.drawCentreString addr len x y 1) s

/-- A datum above 8 keeps its horizontal class d mod 3 and selects no vertical shift: it anchors as the
bottom datum of that class does (R249). -/
def Obligations.DatumAboveEightActsAsBottom : Prop :=
  ∀ (s : State) (d : Byte) (x y : Int) (m : Metrics), 8 < d.toNat →
    { s with regs := { s.regs with datum := d } }.anchor x y m =
      { s with regs := { s.regs with datum := BitVec.ofNat 8 (6 + d.toNat % 3) } }.anchor x y m

/-- With datum 8 and a variable font, the cursor after the last glyph of a string anchored at (x, y) is
(x, y) exactly (R255 (b)). -/
def Obligations.DatumEightEndsAtTheAnchor : Prop :=
  ∀ (s : State) (chs : List Nat) (x y : Half) (o : Int × Int), s.regs.activeFont ≠ 0 →
    s.regs.datum = 8 → o = s.anchor x.toInt y.toInt (s.measure chs) →
    ((State.putAll { s with regs := s.regs.setCursor o.1 o.2 } chs).regs.cursorX,
      (State.putAll { s with regs := s.regs.setCursor o.1 o.2 } chs).regs.cursorY) = (x, y)

/-! ### The picture -/

/-- The physical cell of a logical pixel: the coordinates swapped for rotations 1 and 3, then the column
counted from 319 down if mirror_x is set and the row from 479 down if mirror_y is; the default orientations
are those of the rule. At every rotation the map from logical pixels to physical cells is a bijection from the panel onto the
320 × 480 cells, whatever the mirrors (spec/20_memory.md R75, spec/00_scope.md R16). -/
def Obligations.PhysicalMapIsABijection : Prop :=
  [0, 1, 2, 3].map Config.params.orient =
    [(false, false, false), (true, true, false), (false, true, true), (true, false, true)] ∧
  (∀ (p : Params) (r : BitVec 2) (mirrorX mirrorY : Bool) (x y : Nat),
    p.orientMirrors.get r.toFin = (mirrorX, mirrorY) →
    physical (p.orient r) x y =
      (if mirrorX then 319 - (if r = 1 ∨ r = 3 then y else x) else (if r = 1 ∨ r = 3 then y else x),
       if mirrorY then 479 - (if r = 1 ∨ r = 3 then x else y) else (if r = 1 ∨ r = 3 then x else y))) ∧
  ∀ (p : Params) (r : BitVec 2),
    (∀ x y, x < u16 (panelOf r).1 → y < u16 (panelOf r).2 →
      (physical (p.orient r) x y).1 < 320 ∧ (physical (p.orient r) x y).2 < 480) ∧
    ∀ pcol prow, pcol < 320 → prow < 480 →
      ∃! q : Nat × Nat, q.1 < u16 (panelOf r).1 ∧ q.2 < u16 (panelOf r).2 ∧
        physical (p.orient r) q.1 q.2 = (pcol, prow)

/-- What a drawing call sends paints exactly its pixels on the glass: a conforming sink, left with half a
pixel or not (spec/70_reset_and_hazards.md R302), stays within its contract, holds no half pixel once the call
has sent something and keeps its rotation, the cell of every pixel that the call paints holds its colour, and
every other cell holds what it held (spec/20_memory.md R71 to R77). That the command bytes differ is the
model's premise (notes/assumptions/24.md). -/
def Obligations.DrawingCallPaintsExactlyItsPixels : Prop :=
  ∀ (s : State) (r : Request), s.params.distinct →
    (s.regs.width, s.regs.height) = panelOf s.regs.rotation →
    s.sink.outside = false →
    s.sink.rotation s.params = some s.regs.rotation →
    (s.sink.feedAll s.params (r.txns s)).outside = false ∧
    (r.txns s ≠ [] → (s.sink.feedAll s.params (r.txns s)).latch = none) ∧
    (s.sink.feedAll s.params (r.txns s)).rotation s.params = some s.regs.rotation ∧
    ∀ px py, px < s.panelWidth → py < s.panelHeight →
      (∀ c, r.paints s.panelWidth s.panelHeight px py c →
        (s.sink.feedAll s.params (r.txns s)).cell
          (physical (s.params.orient s.regs.rotation) px py).1
          (physical (s.params.orient s.regs.rotation) px py).2 = c) ∧
      ((∀ c, ¬r.paints s.panelWidth s.panelHeight px py c) →
        (s.sink.feedAll s.params (r.txns s)).cell
          (physical (s.params.orient s.regs.rotation) px py).1
          (physical (s.params.orient s.regs.rotation) px py).2 =
        s.sink.cell (physical (s.params.orient s.regs.rotation) px py).1
          (physical (s.params.orient s.regs.rotation) px py).2)
end

