-- ==== Sys2Proof/Laws/State.lean ====
section
/-! SUPPORT. One lemma per field per update of the state and of the registers, all by definition, so that
no later proof unfolds a record update. -/

namespace Sys2Proof.Machine

/-! ### `State.emit`: only what is still to be emitted changes -/

@[simp] theorem emit_params (s : State) (ts : List Txn) : (s.emit ts).params = s.params := rfl
@[simp] theorem emit_regs (s : State) (ts : List Txn) : (s.emit ts).regs = s.regs := rfl
@[simp] theorem emit_busy (s : State) (ts : List Txn) : (s.emit ts).busy = s.busy := rfl
@[simp] theorem emit_running (s : State) (ts : List Txn) : (s.emit ts).running = s.running := rfl
@[simp] theorem emit_chunk (s : State) (ts : List Txn) : (s.emit ts).chunk = s.chunk := rfl
@[simp] theorem emit_pending (s : State) (ts : List Txn) : (s.emit ts).pending = s.pending ++ ts := rfl
@[simp] theorem emit_transferred (s : State) (ts : List Txn) : (s.emit ts).transferred = s.transferred := rfl
@[simp] theorem emit_bus (s : State) (ts : List Txn) : (s.emit ts).bus = s.bus := rfl
@[simp] theorem emit_amem (s : State) (ts : List Txn) : (s.emit ts).amem = s.amem := rfl
@[simp] theorem emit_sink (s : State) (ts : List Txn) : (s.emit ts).sink = s.sink := rfl
@[simp] theorem emit_port (s : State) (ts : List Txn) : (s.emit ts).port = s.port := rfl
@[simp] theorem emit_inputs (s : State) (ts : List Txn) : (s.emit ts).inputs = s.inputs := rfl
@[simp] theorem emit_readData (s : State) (ts : List Txn) : (s.emit ts).readData = s.readData := rfl
@[simp] theorem emit_free (s : State) (ts : List Txn) : (s.emit ts).free = s.free := rfl

/-! ### `State.prefill`: only the chunk buffer changes -/

@[simp] theorem prefill_params (s : State) (c : Colour) : (s.prefill c).params = s.params := rfl
@[simp] theorem prefill_regs (s : State) (c : Colour) : (s.prefill c).regs = s.regs := rfl
@[simp] theorem prefill_busy (s : State) (c : Colour) : (s.prefill c).busy = s.busy := rfl
@[simp] theorem prefill_running (s : State) (c : Colour) : (s.prefill c).running = s.running := rfl
@[simp] theorem prefill_chunk (s : State) (c : Colour) : (s.prefill c).chunk = pattern (s.params.chunkPairs + 1) c := rfl
@[simp] theorem prefill_pending (s : State) (c : Colour) : (s.prefill c).pending = s.pending := rfl
@[simp] theorem prefill_transferred (s : State) (c : Colour) : (s.prefill c).transferred = s.transferred := rfl
@[simp] theorem prefill_bus (s : State) (c : Colour) : (s.prefill c).bus = s.bus := rfl
@[simp] theorem prefill_amem (s : State) (c : Colour) : (s.prefill c).amem = s.amem := rfl
@[simp] theorem prefill_sink (s : State) (c : Colour) : (s.prefill c).sink = s.sink := rfl
@[simp] theorem prefill_port (s : State) (c : Colour) : (s.prefill c).port = s.port := rfl
@[simp] theorem prefill_inputs (s : State) (c : Colour) : (s.prefill c).inputs = s.inputs := rfl
@[simp] theorem prefill_readData (s : State) (c : Colour) : (s.prefill c).readData = s.readData := rfl
@[simp] theorem prefill_free (s : State) (c : Colour) : (s.prefill c).free = s.free := rfl

/-! ### `State.takeCommand`: the port, `BUSY` and the running command -/

@[simp] theorem takeCommand_params (s : State) (i : Option Instr) : (s.takeCommand i).params = s.params := rfl
@[simp] theorem takeCommand_regs (s : State) (i : Option Instr) : (s.takeCommand i).regs = s.regs := rfl
@[simp] theorem takeCommand_busy (s : State) (i : Option Instr) : (s.takeCommand i).busy = true := rfl
@[simp] theorem takeCommand_running (s : State) (i : Option Instr) : (s.takeCommand i).running = i := rfl
@[simp] theorem takeCommand_chunk (s : State) (i : Option Instr) : (s.takeCommand i).chunk = s.chunk := rfl
@[simp] theorem takeCommand_pending (s : State) (i : Option Instr) : (s.takeCommand i).pending = s.pending := rfl
@[simp] theorem takeCommand_transferred (s : State) (i : Option Instr) : (s.takeCommand i).transferred = s.transferred := rfl
@[simp] theorem takeCommand_bus (s : State) (i : Option Instr) : (s.takeCommand i).bus = s.bus := rfl
@[simp] theorem takeCommand_amem (s : State) (i : Option Instr) : (s.takeCommand i).amem = s.amem := rfl
@[simp] theorem takeCommand_sink (s : State) (i : Option Instr) : (s.takeCommand i).sink = s.sink := rfl
@[simp] theorem takeCommand_port (s : State) (i : Option Instr) : (s.takeCommand i).port = none := rfl
@[simp] theorem takeCommand_inputs (s : State) (i : Option Instr) : (s.takeCommand i).inputs = s.inputs := rfl
@[simp] theorem takeCommand_readData (s : State) (i : Option Instr) : (s.takeCommand i).readData = s.readData := rfl
@[simp] theorem takeCommand_free (s : State) (i : Option Instr) : (s.takeCommand i).free = s.free := rfl

/-! ### `State.settleBusy`: `BUSY` and the running command -/

@[simp] theorem settleBusy_params (s : State) : (s.settleBusy).params = s.params := rfl
@[simp] theorem settleBusy_regs (s : State) : (s.settleBusy).regs = s.regs := rfl
@[simp] theorem settleBusy_busy (s : State) : (s.settleBusy).busy = !s.pending.isEmpty := rfl
@[simp] theorem settleBusy_running (s : State) : (s.settleBusy).running = if s.pending.isEmpty then none else s.running := rfl
@[simp] theorem settleBusy_chunk (s : State) : (s.settleBusy).chunk = s.chunk := rfl
@[simp] theorem settleBusy_pending (s : State) : (s.settleBusy).pending = s.pending := rfl
@[simp] theorem settleBusy_transferred (s : State) : (s.settleBusy).transferred = s.transferred := rfl
@[simp] theorem settleBusy_bus (s : State) : (s.settleBusy).bus = s.bus := rfl
@[simp] theorem settleBusy_amem (s : State) : (s.settleBusy).amem = s.amem := rfl
@[simp] theorem settleBusy_sink (s : State) : (s.settleBusy).sink = s.sink := rfl
@[simp] theorem settleBusy_port (s : State) : (s.settleBusy).port = s.port := rfl
@[simp] theorem settleBusy_inputs (s : State) : (s.settleBusy).inputs = s.inputs := rfl
@[simp] theorem settleBusy_readData (s : State) : (s.settleBusy).readData = s.readData := rfl
@[simp] theorem settleBusy_free (s : State) : (s.settleBusy).free = s.free := rfl

/-! ### `State.newline`: the cursor -/

@[simp] theorem newline_params (s : State) : (s.newline).params = s.params := rfl
@[simp] theorem newline_regs (s : State) : (s.newline).regs = s.regs.setCursor 0 (s16 s.regs.cursorY + s.lineAdvance) := rfl
@[simp] theorem newline_busy (s : State) : (s.newline).busy = s.busy := rfl
@[simp] theorem newline_running (s : State) : (s.newline).running = s.running := rfl
@[simp] theorem newline_chunk (s : State) : (s.newline).chunk = s.chunk := rfl
@[simp] theorem newline_pending (s : State) : (s.newline).pending = s.pending := rfl
@[simp] theorem newline_transferred (s : State) : (s.newline).transferred = s.transferred := rfl
@[simp] theorem newline_bus (s : State) : (s.newline).bus = s.bus := rfl
@[simp] theorem newline_amem (s : State) : (s.newline).amem = s.amem := rfl
@[simp] theorem newline_sink (s : State) : (s.newline).sink = s.sink := rfl
@[simp] theorem newline_port (s : State) : (s.newline).port = s.port := rfl
@[simp] theorem newline_inputs (s : State) : (s.newline).inputs = s.inputs := rfl
@[simp] theorem newline_readData (s : State) : (s.newline).readData = s.readData := rfl
@[simp] theorem newline_free (s : State) : (s.newline).free = s.free := rfl

/-! ### `State.advanceCursor`: the cursor -/

@[simp] theorem advanceCursor_params (s : State) (ch : Nat) : (s.advanceCursor ch).params = s.params := rfl
@[simp] theorem advanceCursor_regs (s : State) (ch : Nat) : (s.advanceCursor ch).regs = s.regs.setCursor (s16 s.regs.cursorX + s.advance ch) (s16 s.regs.cursorY) := rfl
@[simp] theorem advanceCursor_busy (s : State) (ch : Nat) : (s.advanceCursor ch).busy = s.busy := rfl
@[simp] theorem advanceCursor_running (s : State) (ch : Nat) : (s.advanceCursor ch).running = s.running := rfl
@[simp] theorem advanceCursor_chunk (s : State) (ch : Nat) : (s.advanceCursor ch).chunk = s.chunk := rfl
@[simp] theorem advanceCursor_pending (s : State) (ch : Nat) : (s.advanceCursor ch).pending = s.pending := rfl
@[simp] theorem advanceCursor_transferred (s : State) (ch : Nat) : (s.advanceCursor ch).transferred = s.transferred := rfl
@[simp] theorem advanceCursor_bus (s : State) (ch : Nat) : (s.advanceCursor ch).bus = s.bus := rfl
@[simp] theorem advanceCursor_amem (s : State) (ch : Nat) : (s.advanceCursor ch).amem = s.amem := rfl
@[simp] theorem advanceCursor_sink (s : State) (ch : Nat) : (s.advanceCursor ch).sink = s.sink := rfl
@[simp] theorem advanceCursor_port (s : State) (ch : Nat) : (s.advanceCursor ch).port = s.port := rfl
@[simp] theorem advanceCursor_inputs (s : State) (ch : Nat) : (s.advanceCursor ch).inputs = s.inputs := rfl
@[simp] theorem advanceCursor_readData (s : State) (ch : Nat) : (s.advanceCursor ch).readData = s.readData := rfl
@[simp] theorem advanceCursor_free (s : State) (ch : Nat) : (s.advanceCursor ch).free = s.free := rfl

/-! ### `State.selectFont`: the active font -/

@[simp] theorem selectFont_params (s : State) (sel : Nat) : (s.selectFont sel).params = s.params := rfl
@[simp] theorem selectFont_regs (s : State) (sel : Nat) : (s.selectFont sel).regs = s.regs.setFont (if sel ≤ 5 then s.regs.slot sel else 0) := rfl
@[simp] theorem selectFont_busy (s : State) (sel : Nat) : (s.selectFont sel).busy = s.busy := rfl
@[simp] theorem selectFont_running (s : State) (sel : Nat) : (s.selectFont sel).running = s.running := rfl
@[simp] theorem selectFont_chunk (s : State) (sel : Nat) : (s.selectFont sel).chunk = s.chunk := rfl
@[simp] theorem selectFont_pending (s : State) (sel : Nat) : (s.selectFont sel).pending = s.pending := rfl
@[simp] theorem selectFont_transferred (s : State) (sel : Nat) : (s.selectFont sel).transferred = s.transferred := rfl
@[simp] theorem selectFont_bus (s : State) (sel : Nat) : (s.selectFont sel).bus = s.bus := rfl
@[simp] theorem selectFont_amem (s : State) (sel : Nat) : (s.selectFont sel).amem = s.amem := rfl
@[simp] theorem selectFont_sink (s : State) (sel : Nat) : (s.selectFont sel).sink = s.sink := rfl
@[simp] theorem selectFont_port (s : State) (sel : Nat) : (s.selectFont sel).port = s.port := rfl
@[simp] theorem selectFont_inputs (s : State) (sel : Nat) : (s.selectFont sel).inputs = s.inputs := rfl
@[simp] theorem selectFont_readData (s : State) (sel : Nat) : (s.selectFont sel).readData = s.readData := rfl
@[simp] theorem selectFont_free (s : State) (sel : Nat) : (s.selectFont sel).free = s.free := rfl

/-! ### `State.keepOffered`: only what is still to be emitted -/

@[simp] theorem keepOffered_params (s : State) (u : State) : (s.keepOffered u).params = s.params := rfl
@[simp] theorem keepOffered_regs (s : State) (u : State) : (s.keepOffered u).regs = s.regs := rfl
@[simp] theorem keepOffered_busy (s : State) (u : State) : (s.keepOffered u).busy = s.busy := rfl
@[simp] theorem keepOffered_running (s : State) (u : State) : (s.keepOffered u).running = s.running := rfl
@[simp] theorem keepOffered_chunk (s : State) (u : State) : (s.keepOffered u).chunk = s.chunk := rfl
@[simp] theorem keepOffered_pending (s : State) (u : State) : (s.keepOffered u).pending = if s.pending.isEmpty then u.offeredWindow else s.pending := rfl
@[simp] theorem keepOffered_transferred (s : State) (u : State) : (s.keepOffered u).transferred = s.transferred := rfl
@[simp] theorem keepOffered_bus (s : State) (u : State) : (s.keepOffered u).bus = s.bus := rfl
@[simp] theorem keepOffered_amem (s : State) (u : State) : (s.keepOffered u).amem = s.amem := rfl
@[simp] theorem keepOffered_sink (s : State) (u : State) : (s.keepOffered u).sink = s.sink := rfl
@[simp] theorem keepOffered_port (s : State) (u : State) : (s.keepOffered u).port = s.port := rfl
@[simp] theorem keepOffered_inputs (s : State) (u : State) : (s.keepOffered u).inputs = s.inputs := rfl
@[simp] theorem keepOffered_readData (s : State) (u : State) : (s.keepOffered u).readData = s.readData := rfl
@[simp] theorem keepOffered_free (s : State) (u : State) : (s.keepOffered u).free = s.free := rfl

/-! ### `Registers.setPanel`: rotation, width and height -/

@[simp] theorem setPanel_rotation (r : Registers) (q : BitVec 2) : (r.setPanel q).rotation = q := rfl
@[simp] theorem setPanel_width (r : Registers) (q : BitVec 2) : (r.setPanel q).width = (panelOf q).1 := rfl
@[simp] theorem setPanel_height (r : Registers) (q : BitVec 2) : (r.setPanel q).height = (panelOf q).2 := rfl
@[simp] theorem setPanel_cursorX (r : Registers) (q : BitVec 2) : (r.setPanel q).cursorX = r.cursorX := rfl
@[simp] theorem setPanel_cursorY (r : Registers) (q : BitVec 2) : (r.setPanel q).cursorY = r.cursorY := rfl
@[simp] theorem setPanel_textFg (r : Registers) (q : BitVec 2) : (r.setPanel q).textFg = r.textFg := rfl
@[simp] theorem setPanel_textBg (r : Registers) (q : BitVec 2) : (r.setPanel q).textBg = r.textBg := rfl
@[simp] theorem setPanel_useBg (r : Registers) (q : BitVec 2) : (r.setPanel q).useBg = r.useBg := rfl
@[simp] theorem setPanel_textSize (r : Registers) (q : BitVec 2) : (r.setPanel q).textSize = r.textSize := rfl
@[simp] theorem setPanel_datum (r : Registers) (q : BitVec 2) : (r.setPanel q).datum = r.datum := rfl
@[simp] theorem setPanel_activeFont (r : Registers) (q : BitVec 2) : (r.setPanel q).activeFont = r.activeFont := rfl
@[simp] theorem setPanel_slot2 (r : Registers) (q : BitVec 2) : (r.setPanel q).slot2 = r.slot2 := rfl
@[simp] theorem setPanel_slot3 (r : Registers) (q : BitVec 2) : (r.setPanel q).slot3 = r.slot3 := rfl
@[simp] theorem setPanel_slot4 (r : Registers) (q : BitVec 2) : (r.setPanel q).slot4 = r.slot4 := rfl
@[simp] theorem setPanel_slot5 (r : Registers) (q : BitVec 2) : (r.setPanel q).slot5 = r.slot5 := rfl
@[simp] theorem setPanel_result (r : Registers) (q : BitVec 2) : (r.setPanel q).result = r.result := rfl

/-! ### `Registers.setCursor`: the cursor -/

@[simp] theorem setCursor_rotation (r : Registers) (x y : Int) : (r.setCursor x y).rotation = r.rotation := rfl
@[simp] theorem setCursor_width (r : Registers) (x y : Int) : (r.setCursor x y).width = r.width := rfl
@[simp] theorem setCursor_height (r : Registers) (x y : Int) : (r.setCursor x y).height = r.height := rfl
@[simp] theorem setCursor_cursorX (r : Registers) (x y : Int) : (r.setCursor x y).cursorX = wrapS16 x := rfl
@[simp] theorem setCursor_cursorY (r : Registers) (x y : Int) : (r.setCursor x y).cursorY = wrapS16 y := rfl
@[simp] theorem setCursor_textFg (r : Registers) (x y : Int) : (r.setCursor x y).textFg = r.textFg := rfl
@[simp] theorem setCursor_textBg (r : Registers) (x y : Int) : (r.setCursor x y).textBg = r.textBg := rfl
@[simp] theorem setCursor_useBg (r : Registers) (x y : Int) : (r.setCursor x y).useBg = r.useBg := rfl
@[simp] theorem setCursor_textSize (r : Registers) (x y : Int) : (r.setCursor x y).textSize = r.textSize := rfl
@[simp] theorem setCursor_datum (r : Registers) (x y : Int) : (r.setCursor x y).datum = r.datum := rfl
@[simp] theorem setCursor_activeFont (r : Registers) (x y : Int) : (r.setCursor x y).activeFont = r.activeFont := rfl
@[simp] theorem setCursor_slot2 (r : Registers) (x y : Int) : (r.setCursor x y).slot2 = r.slot2 := rfl
@[simp] theorem setCursor_slot3 (r : Registers) (x y : Int) : (r.setCursor x y).slot3 = r.slot3 := rfl
@[simp] theorem setCursor_slot4 (r : Registers) (x y : Int) : (r.setCursor x y).slot4 = r.slot4 := rfl
@[simp] theorem setCursor_slot5 (r : Registers) (x y : Int) : (r.setCursor x y).slot5 = r.slot5 := rfl
@[simp] theorem setCursor_result (r : Registers) (x y : Int) : (r.setCursor x y).result = r.result := rfl

/-! ### `Registers.setFont`: the active font -/

@[simp] theorem setFont_rotation (r : Registers) (f : Half) : (r.setFont f).rotation = r.rotation := rfl
@[simp] theorem setFont_width (r : Registers) (f : Half) : (r.setFont f).width = r.width := rfl
@[simp] theorem setFont_height (r : Registers) (f : Half) : (r.setFont f).height = r.height := rfl
@[simp] theorem setFont_cursorX (r : Registers) (f : Half) : (r.setFont f).cursorX = r.cursorX := rfl
@[simp] theorem setFont_cursorY (r : Registers) (f : Half) : (r.setFont f).cursorY = r.cursorY := rfl
@[simp] theorem setFont_textFg (r : Registers) (f : Half) : (r.setFont f).textFg = r.textFg := rfl
@[simp] theorem setFont_textBg (r : Registers) (f : Half) : (r.setFont f).textBg = r.textBg := rfl
@[simp] theorem setFont_useBg (r : Registers) (f : Half) : (r.setFont f).useBg = r.useBg := rfl
@[simp] theorem setFont_textSize (r : Registers) (f : Half) : (r.setFont f).textSize = r.textSize := rfl
@[simp] theorem setFont_datum (r : Registers) (f : Half) : (r.setFont f).datum = r.datum := rfl
@[simp] theorem setFont_activeFont (r : Registers) (f : Half) : (r.setFont f).activeFont = f := rfl
@[simp] theorem setFont_slot2 (r : Registers) (f : Half) : (r.setFont f).slot2 = r.slot2 := rfl
@[simp] theorem setFont_slot3 (r : Registers) (f : Half) : (r.setFont f).slot3 = r.slot3 := rfl
@[simp] theorem setFont_slot4 (r : Registers) (f : Half) : (r.setFont f).slot4 = r.slot4 := rfl
@[simp] theorem setFont_slot5 (r : Registers) (f : Half) : (r.setFont f).slot5 = r.slot5 := rfl
@[simp] theorem setFont_result (r : Registers) (f : Half) : (r.setFont f).result = r.result := rfl

/-! ### `Registers.setResult`: the result -/

@[simp] theorem setResult_rotation (r : Registers) (v : BitVec 32) : (r.setResult v).rotation = r.rotation := rfl
@[simp] theorem setResult_width (r : Registers) (v : BitVec 32) : (r.setResult v).width = r.width := rfl
@[simp] theorem setResult_height (r : Registers) (v : BitVec 32) : (r.setResult v).height = r.height := rfl
@[simp] theorem setResult_cursorX (r : Registers) (v : BitVec 32) : (r.setResult v).cursorX = r.cursorX := rfl
@[simp] theorem setResult_cursorY (r : Registers) (v : BitVec 32) : (r.setResult v).cursorY = r.cursorY := rfl
@[simp] theorem setResult_textFg (r : Registers) (v : BitVec 32) : (r.setResult v).textFg = r.textFg := rfl
@[simp] theorem setResult_textBg (r : Registers) (v : BitVec 32) : (r.setResult v).textBg = r.textBg := rfl
@[simp] theorem setResult_useBg (r : Registers) (v : BitVec 32) : (r.setResult v).useBg = r.useBg := rfl
@[simp] theorem setResult_textSize (r : Registers) (v : BitVec 32) : (r.setResult v).textSize = r.textSize := rfl
@[simp] theorem setResult_datum (r : Registers) (v : BitVec 32) : (r.setResult v).datum = r.datum := rfl
@[simp] theorem setResult_activeFont (r : Registers) (v : BitVec 32) : (r.setResult v).activeFont = r.activeFont := rfl
@[simp] theorem setResult_slot2 (r : Registers) (v : BitVec 32) : (r.setResult v).slot2 = r.slot2 := rfl
@[simp] theorem setResult_slot3 (r : Registers) (v : BitVec 32) : (r.setResult v).slot3 = r.slot3 := rfl
@[simp] theorem setResult_slot4 (r : Registers) (v : BitVec 32) : (r.setResult v).slot4 = r.slot4 := rfl
@[simp] theorem setResult_slot5 (r : Registers) (v : BitVec 32) : (r.setResult v).slot5 = r.slot5 := rfl
@[simp] theorem setResult_result (r : Registers) (v : BitVec 32) : (r.setResult v).result = v := rfl

/-! ### `Registers.clearUseBg`: the flag -/

@[simp] theorem clearUseBg_rotation (r : Registers) : (r.clearUseBg).rotation = r.rotation := rfl
@[simp] theorem clearUseBg_width (r : Registers) : (r.clearUseBg).width = r.width := rfl
@[simp] theorem clearUseBg_height (r : Registers) : (r.clearUseBg).height = r.height := rfl
@[simp] theorem clearUseBg_cursorX (r : Registers) : (r.clearUseBg).cursorX = r.cursorX := rfl
@[simp] theorem clearUseBg_cursorY (r : Registers) : (r.clearUseBg).cursorY = r.cursorY := rfl
@[simp] theorem clearUseBg_textFg (r : Registers) : (r.clearUseBg).textFg = r.textFg := rfl
@[simp] theorem clearUseBg_textBg (r : Registers) : (r.clearUseBg).textBg = r.textBg := rfl
@[simp] theorem clearUseBg_useBg (r : Registers) : (r.clearUseBg).useBg = false := rfl
@[simp] theorem clearUseBg_textSize (r : Registers) : (r.clearUseBg).textSize = r.textSize := rfl
@[simp] theorem clearUseBg_datum (r : Registers) : (r.clearUseBg).datum = r.datum := rfl
@[simp] theorem clearUseBg_activeFont (r : Registers) : (r.clearUseBg).activeFont = r.activeFont := rfl
@[simp] theorem clearUseBg_slot2 (r : Registers) : (r.clearUseBg).slot2 = r.slot2 := rfl
@[simp] theorem clearUseBg_slot3 (r : Registers) : (r.clearUseBg).slot3 = r.slot3 := rfl
@[simp] theorem clearUseBg_slot4 (r : Registers) : (r.clearUseBg).slot4 = r.slot4 := rfl
@[simp] theorem clearUseBg_slot5 (r : Registers) : (r.clearUseBg).slot5 = r.slot5 := rfl
@[simp] theorem clearUseBg_result (r : Registers) : (r.clearUseBg).result = r.result := rfl

/-! ### `Registers.setUseBg`: the flag -/

@[simp] theorem setUseBg_rotation (r : Registers) : (r.setUseBg).rotation = r.rotation := rfl
@[simp] theorem setUseBg_width (r : Registers) : (r.setUseBg).width = r.width := rfl
@[simp] theorem setUseBg_height (r : Registers) : (r.setUseBg).height = r.height := rfl
@[simp] theorem setUseBg_cursorX (r : Registers) : (r.setUseBg).cursorX = r.cursorX := rfl
@[simp] theorem setUseBg_cursorY (r : Registers) : (r.setUseBg).cursorY = r.cursorY := rfl
@[simp] theorem setUseBg_textFg (r : Registers) : (r.setUseBg).textFg = r.textFg := rfl
@[simp] theorem setUseBg_textBg (r : Registers) : (r.setUseBg).textBg = r.textBg := rfl
@[simp] theorem setUseBg_useBg (r : Registers) : (r.setUseBg).useBg = true := rfl
@[simp] theorem setUseBg_textSize (r : Registers) : (r.setUseBg).textSize = r.textSize := rfl
@[simp] theorem setUseBg_datum (r : Registers) : (r.setUseBg).datum = r.datum := rfl
@[simp] theorem setUseBg_activeFont (r : Registers) : (r.setUseBg).activeFont = r.activeFont := rfl
@[simp] theorem setUseBg_slot2 (r : Registers) : (r.setUseBg).slot2 = r.slot2 := rfl
@[simp] theorem setUseBg_slot3 (r : Registers) : (r.setUseBg).slot3 = r.slot3 := rfl
@[simp] theorem setUseBg_slot4 (r : Registers) : (r.setUseBg).slot4 = r.slot4 := rfl
@[simp] theorem setUseBg_slot5 (r : Registers) : (r.setUseBg).slot5 = r.slot5 := rfl
@[simp] theorem setUseBg_result (r : Registers) : (r.setUseBg).result = r.result := rfl

/-! ### `Registers.restoreText`: the saved registers and the result -/

@[simp] theorem restoreText_rotation (r : Registers) (q : Registers) (n : Nat) : (r.restoreText q n).rotation = r.rotation := rfl
@[simp] theorem restoreText_width (r : Registers) (q : Registers) (n : Nat) : (r.restoreText q n).width = r.width := rfl
@[simp] theorem restoreText_height (r : Registers) (q : Registers) (n : Nat) : (r.restoreText q n).height = r.height := rfl
@[simp] theorem restoreText_cursorX (r : Registers) (q : Registers) (n : Nat) : (r.restoreText q n).cursorX = q.cursorX := rfl
@[simp] theorem restoreText_cursorY (r : Registers) (q : Registers) (n : Nat) : (r.restoreText q n).cursorY = q.cursorY := rfl
@[simp] theorem restoreText_textFg (r : Registers) (q : Registers) (n : Nat) : (r.restoreText q n).textFg = r.textFg := rfl
@[simp] theorem restoreText_textBg (r : Registers) (q : Registers) (n : Nat) : (r.restoreText q n).textBg = r.textBg := rfl
@[simp] theorem restoreText_useBg (r : Registers) (q : Registers) (n : Nat) : (r.restoreText q n).useBg = r.useBg := rfl
@[simp] theorem restoreText_textSize (r : Registers) (q : Registers) (n : Nat) : (r.restoreText q n).textSize = q.textSize := rfl
@[simp] theorem restoreText_datum (r : Registers) (q : Registers) (n : Nat) : (r.restoreText q n).datum = r.datum := rfl
@[simp] theorem restoreText_activeFont (r : Registers) (q : Registers) (n : Nat) : (r.restoreText q n).activeFont = q.activeFont := rfl
@[simp] theorem restoreText_slot2 (r : Registers) (q : Registers) (n : Nat) : (r.restoreText q n).slot2 = r.slot2 := rfl
@[simp] theorem restoreText_slot3 (r : Registers) (q : Registers) (n : Nat) : (r.restoreText q n).slot3 = r.slot3 := rfl
@[simp] theorem restoreText_slot4 (r : Registers) (q : Registers) (n : Nat) : (r.restoreText q n).slot4 = r.slot4 := rfl
@[simp] theorem restoreText_slot5 (r : Registers) (q : Registers) (n : Nat) : (r.restoreText q n).slot5 = r.slot5 := rfl
@[simp] theorem restoreText_result (r : Registers) (q : Registers) (n : Nat) : (r.restoreText q n).result = BitVec.ofNat 32 n := rfl

/-! ### `Registers.setSlot`: one slot, by its number -/

/-- A write to slot `k` is read back from slot `k` when the slot is storage. -/
theorem slot_setSlot_same (r : Registers) (k : Nat) (f : Half) (h : 2 ≤ k) (h5 : k ≤ 5) :
    (r.setSlot k f).slot k = f := by
  obtain rfl | rfl | rfl | rfl : k = 2 ∨ k = 3 ∨ k = 4 ∨ k = 5 := by omega
  all_goals rfl

/-- A slot number outside 2 to 5 writes nothing. -/
theorem setSlot_ignored (r : Registers) (k : Nat) (f : Half) (h : k < 2 ∨ 5 < k) : r.setSlot k f = r := by
  unfold Registers.setSlot
  split <;> first | rfl | omega

@[simp] theorem setSlot_rotation (r : Registers) (k : Nat) (f : Half) : (r.setSlot k f).rotation = r.rotation := by
  unfold Registers.setSlot; split <;> rfl
@[simp] theorem setSlot_width (r : Registers) (k : Nat) (f : Half) : (r.setSlot k f).width = r.width := by
  unfold Registers.setSlot; split <;> rfl
@[simp] theorem setSlot_height (r : Registers) (k : Nat) (f : Half) : (r.setSlot k f).height = r.height := by
  unfold Registers.setSlot; split <;> rfl
@[simp] theorem setSlot_cursorX (r : Registers) (k : Nat) (f : Half) : (r.setSlot k f).cursorX = r.cursorX := by
  unfold Registers.setSlot; split <;> rfl
@[simp] theorem setSlot_cursorY (r : Registers) (k : Nat) (f : Half) : (r.setSlot k f).cursorY = r.cursorY := by
  unfold Registers.setSlot; split <;> rfl
@[simp] theorem setSlot_textFg (r : Registers) (k : Nat) (f : Half) : (r.setSlot k f).textFg = r.textFg := by
  unfold Registers.setSlot; split <;> rfl
@[simp] theorem setSlot_textBg (r : Registers) (k : Nat) (f : Half) : (r.setSlot k f).textBg = r.textBg := by
  unfold Registers.setSlot; split <;> rfl
@[simp] theorem setSlot_useBg (r : Registers) (k : Nat) (f : Half) : (r.setSlot k f).useBg = r.useBg := by
  unfold Registers.setSlot; split <;> rfl
@[simp] theorem setSlot_textSize (r : Registers) (k : Nat) (f : Half) : (r.setSlot k f).textSize = r.textSize := by
  unfold Registers.setSlot; split <;> rfl
@[simp] theorem setSlot_datum (r : Registers) (k : Nat) (f : Half) : (r.setSlot k f).datum = r.datum := by
  unfold Registers.setSlot; split <;> rfl
@[simp] theorem setSlot_activeFont (r : Registers) (k : Nat) (f : Half) : (r.setSlot k f).activeFont = r.activeFont := by
  unfold Registers.setSlot; split <;> rfl
@[simp] theorem setSlot_result (r : Registers) (k : Nat) (f : Half) : (r.setSlot k f).result = r.result := by
  unfold Registers.setSlot; split <;> rfl

end Sys2Proof.Machine
end

