-- ==== Sys2Proof/Laws/Drawing.lean ====
section
/-! SUPPORT. What the drawing operations can do, said once: they append transactions to what is still to
be emitted, may load the chunk buffer, and change nothing else. -/

namespace Sys2Proof.Machine

/-- Emitting nothing changes nothing. -/
@[simp] theorem emit_nil (s : State) : s.emit [] = s := by simp [State.emit]

/-- Two lists of transactions are emitted one after the other. -/
theorem emit_emit (s : State) (ts us : List Txn) : (s.emit ts).emit us = s.emit (ts ++ us) := by
  simp [State.emit]

/-- The chunk pattern has two bytes per pixel. -/
@[simp] theorem pattern_length (n : Nat) (c : Colour) : (pattern n c).length = 2 * n := by
  simp [pattern, colourBytes, Nat.mul_comm]

/-- The wire trace of two lists is one after the other. -/
@[simp] theorem wire_append (ts us : List Txn) : wire (ts ++ us) = wire ts ++ wire us := by
  simp [wire]

/-- The chunk buffer after a drawing call. -/
def Request.buffer (s : State) (r : Request) : List Byte :=
  match r with
  | .pixel _ _ _ => s.chunk
  | .fill x y w h c =>
    match clip s.panelWidth s.panelHeight x y w h with
    | none => s.chunk
    | some _ => pattern (s.params.chunkPairs + 1) c

/-- A drawing call in full. -/
theorem draw_eq (s : State) (r : Request) :
    s.draw r = { s with pending := s.pending ++ r.txns s, chunk := r.buffer s } := by
  cases r with
  | pixel x y c =>
    simp only [State.draw, State.pixel, Request.txns, Request.buffer]
    split
    · rfl
    · simp
  | fill x y w h c =>
    simp only [State.draw, State.fill, Request.txns, Request.buffer]
    cases clip s.panelWidth s.panelHeight x y w h with
    | none => simp
    | some q => simp [State.stream, State.emit, State.prefill]

/-- What a drawing call emits depends on the panel and the parameters alone. -/
theorem txns_congr (s t : State) (r : Request) (hw : t.regs.width = s.regs.width)
    (hh : t.regs.height = s.regs.height) (hp : t.params = s.params) : r.txns t = r.txns s := by
  have ew : t.panelWidth = s.panelWidth := congrArg u16 hw
  have eh : t.panelHeight = s.panelHeight := congrArg u16 hh
  cases r <;> simp only [Request.txns] <;> rw [ew, eh, hp]

/-- The buffer is left alone or holds one colour, `CHUNK_BYTES` bytes of it. -/
theorem buffer_cases (s : State) (r : Request) :
    r.buffer s = s.chunk ∨ ∃ c, r.buffer s = pattern (s.params.chunkPairs + 1) c := by
  cases r with
  | pixel x y c => exact .inl rfl
  | fill x y w h c =>
    simp only [Request.buffer]
    split
    · exact .inl rfl
    · exact .inr ⟨c, rfl⟩

/-- A list of drawing calls in full: each emits its transactions, in order. -/
theorem drawAll_eq (s : State) (rs : List Request) :
    ∃ buf, s.drawAll rs = { s with pending := s.pending ++ rs.flatMap (Request.txns s), chunk := buf } ∧
      (buf = s.chunk ∨ ∃ c, buf = pattern (s.params.chunkPairs + 1) c) := by
  induction rs generalizing s with
  | nil => exact ⟨s.chunk, by simp [State.drawAll], .inl rfl⟩
  | cons r rs ih =>
    obtain ⟨buf, heq, hbuf⟩ := ih (s.draw r)
    have htx : rs.flatMap (Request.txns (s.draw r)) = rs.flatMap (Request.txns s) :=
      List.flatMap_congr fun q _ => txns_congr s (s.draw r) q (by rw [draw_eq]) (by rw [draw_eq])
        (by rw [draw_eq])
    refine ⟨buf, ?_, ?_⟩
    · have : s.drawAll (r :: rs) = (s.draw r).drawAll rs := rfl
      rw [this, heq, htx, draw_eq]
      simp
    · rcases hbuf with h | ⟨c, h⟩
      · rcases buffer_cases s r with hb | ⟨c, hb⟩
        · exact .inl (by rw [h, draw_eq]; exact hb)
        · exact .inr ⟨c, by rw [h, draw_eq]; exact hb⟩
      · exact .inr ⟨c, by rw [h, draw_eq]⟩

/-- A list of drawing calls changes only what is still to be emitted and the chunk buffer. -/
theorem drawAll_frame (s : State) (rs : List Request) :
    s.drawAll rs = { s with pending := (s.drawAll rs).pending, chunk := (s.drawAll rs).chunk } := by
  obtain ⟨buf, h, -⟩ := drawAll_eq s rs
  rw [h]

/-- The registers after a list of drawing calls. -/
@[simp] theorem drawAll_regs (s : State) (rs : List Request) : (s.drawAll rs).regs = s.regs := by
  rw [drawAll_frame]

/-- Asset memory after a list of drawing calls. -/
@[simp] theorem drawAll_amem (s : State) (rs : List Request) : (s.drawAll rs).amem = s.amem := by
  rw [drawAll_frame]

/-- The parameters after a list of drawing calls. -/
@[simp] theorem drawAll_params (s : State) (rs : List Request) : (s.drawAll rs).params = s.params := by
  rw [drawAll_frame]

/-- What is still to be emitted after a list of drawing calls. -/
theorem drawAll_pending (s : State) (rs : List Request) :
    (s.drawAll rs).pending = s.pending ++ rs.flatMap (Request.txns s) := by
  obtain ⟨buf, h, -⟩ := drawAll_eq s rs
  rw [h]

/-- A fill is one drawing call. -/
theorem fill_eq_drawAll (s : State) (x y : Int) (w h : Nat) (c : Colour) :
    s.fill x y w h c = s.drawAll [.fill x y w h c] := rfl

/-- A pixel is one drawing call. -/
theorem pixel_eq_drawAll (s : State) (x y : Int) (c : Colour) :
    s.pixel x y c = s.drawAll [.pixel x y c] := rfl

end Sys2Proof.Machine
end

