-- ==== Sys2Proof/Laws/Encoding.lean ====
section
/-! SUPPORT. The fields of a packed word: each slot holds what was put into it. -/

namespace Sys2Proof

/-- The opcode of a packed word. -/
@[simp] theorem op_pack (op : Byte) (a b c d e f g : Half) :
    CommandWord.op (pack op a b c d e f g) = op := by
  apply BitVec.eq_of_getLsbD_eq
  intro i hi
  simp only [CommandWord.op, pack, BitVec.getLsbD_extractLsb', BitVec.getLsbD_append]
  grind

/-- The reserved low byte of a packed word is zero. -/
@[simp] theorem z_pack (op : Byte) (a b c d e f g : Half) :
    CommandWord.z (pack op a b c d e f g) = 0#8 := by
  apply BitVec.eq_of_getLsbD_eq
  intro i hi
  simp only [CommandWord.z, pack, BitVec.getLsbD_extractLsb', BitVec.getLsbD_append]
  rw [if_pos (by omega)]
  simp

/-- Slot `A` of a packed word. -/
@[simp] theorem slot0_pack (op : Byte) (a b c d e f g : Half) :
    CommandWord.slot (pack op a b c d e f g) 0 = a := by
  apply BitVec.eq_of_getLsbD_eq
  intro i hi
  simp only [CommandWord.slot, pack, BitVec.getLsbD_extractLsb', BitVec.getLsbD_append]
  grind

/-- Slot `B` of a packed word. -/
@[simp] theorem slot1_pack (op : Byte) (a b c d e f g : Half) :
    CommandWord.slot (pack op a b c d e f g) 1 = b := by
  apply BitVec.eq_of_getLsbD_eq
  intro i hi
  simp only [CommandWord.slot, pack, BitVec.getLsbD_extractLsb', BitVec.getLsbD_append]
  grind

/-- Slot `C` of a packed word. -/
@[simp] theorem slot2_pack (op : Byte) (a b c d e f g : Half) :
    CommandWord.slot (pack op a b c d e f g) 2 = c := by
  apply BitVec.eq_of_getLsbD_eq
  intro i hi
  simp only [CommandWord.slot, pack, BitVec.getLsbD_extractLsb', BitVec.getLsbD_append]
  grind

/-- Slot `D` of a packed word. -/
@[simp] theorem slot3_pack (op : Byte) (a b c d e f g : Half) :
    CommandWord.slot (pack op a b c d e f g) 3 = d := by
  apply BitVec.eq_of_getLsbD_eq
  intro i hi
  simp only [CommandWord.slot, pack, BitVec.getLsbD_extractLsb', BitVec.getLsbD_append]
  grind

/-- Slot `E` of a packed word. -/
@[simp] theorem slot4_pack (op : Byte) (a b c d e f g : Half) :
    CommandWord.slot (pack op a b c d e f g) 4 = e := by
  apply BitVec.eq_of_getLsbD_eq
  intro i hi
  simp only [CommandWord.slot, pack, BitVec.getLsbD_extractLsb', BitVec.getLsbD_append]
  grind

/-- Slot `F` of a packed word. -/
@[simp] theorem slot5_pack (op : Byte) (a b c d e f g : Half) :
    CommandWord.slot (pack op a b c d e f g) 5 = f := by
  apply BitVec.eq_of_getLsbD_eq
  intro i hi
  simp only [CommandWord.slot, pack, BitVec.getLsbD_extractLsb', BitVec.getLsbD_append]
  grind

/-- Slot `G` of a packed word. -/
@[simp] theorem slot6_pack (op : Byte) (a b c d e f g : Half) :
    CommandWord.slot (pack op a b c d e f g) 6 = g := by
  apply BitVec.eq_of_getLsbD_eq
  intro i hi
  simp only [CommandWord.slot, pack, BitVec.getLsbD_extractLsb', BitVec.getLsbD_append]
  grind

/-- An 8-bit operand is read back from its slot. -/
@[simp] theorem slot8_low (v : Byte) : (slot8 v).setWidth 8 = v := by
  simp [slot8, BitVec.setWidth_setWidth_of_le]

/-- A 2-bit operand is read back from its slot. -/
@[simp] theorem slot2_low (v : BitVec 2) : (slot2 v).setWidth 2 = v := by
  simp [slot2, BitVec.setWidth_setWidth_of_le]

/-- The ignored bits of an 8-bit operand's slot are zero. -/
@[simp] theorem slot8_wf (v : Byte) : CommandWord.slotWf .low8 (slot8 v) = true := by
  have h := v.isLt
  simp only [CommandWord.slotWf, slot8, BitVec.toNat_setWidth, decide_eq_true_eq]
  omega

/-- The ignored bits of a 2-bit operand's slot are zero. -/
@[simp] theorem slot2_wf (v : BitVec 2) : CommandWord.slotWf .low2 (slot2 v) = true := by
  have h := v.isLt
  simp only [CommandWord.slotWf, slot2, BitVec.toNat_setWidth, decide_eq_true_eq]
  omega

/-- A 16-bit operand uses its whole slot. -/
@[simp] theorem whole_wf (v : Half) : CommandWord.slotWf .whole v = true := rfl

/-- An unused slot is zero. -/
@[simp] theorem unused_wf : CommandWord.slotWf .unused 0#16 = true := rfl

/-- A packed word is well-formed when its opcode is assigned and its slots respect their kinds. -/
theorem wf_pack (op : Byte) (a b c d e f g : Half) (ks : List SlotKind)
    (hk : CommandWord.kinds op = some ks)
    (h : (CommandWord.slotWf (ks.getD 0 .unused) a && CommandWord.slotWf (ks.getD 1 .unused) b &&
      CommandWord.slotWf (ks.getD 2 .unused) c && CommandWord.slotWf (ks.getD 3 .unused) d &&
      CommandWord.slotWf (ks.getD 4 .unused) e && CommandWord.slotWf (ks.getD 5 .unused) f &&
      CommandWord.slotWf (ks.getD 6 .unused) g) = true) :
    CommandWord.wf (pack op a b c d e f g) = true := by
  simp only [Bool.and_eq_true] at h
  obtain ⟨⟨⟨⟨⟨⟨ha, hb⟩, hc⟩, hd⟩, he⟩, hf⟩, hg⟩ := h
  have hr : List.range 7 = [0, 1, 2, 3, 4, 5, 6] := rfl
  simp only [CommandWord.wf, op_pack, hk, hr, List.all_cons, List.all_nil, slot0_pack, slot1_pack,
    slot2_pack, slot3_pack, slot4_pack, slot5_pack, slot6_pack, z_pack, ha, hb, hc, hd, he, hf, hg]
  rfl

end Sys2Proof
end

