-- ==== Sys2Proof/Laws/Text.lean ====
section
/-! SUPPORT. What the text operations can do, said once: they emit, may load the chunk buffer, move the
cursor, and change nothing else; the string commands restore the cursor and write `RESULT`. -/

namespace Sys2Proof.Machine

/-- From `s` to `t` only the cursor, the chunk buffer and what is still to be emitted may change; the latter
only grows, and the former keeps its length or is loaded. -/
abbrev CursorFrame (s t : State) : Prop :=
  t = { s with pending := t.pending, chunk := t.chunk,
               regs := { s.regs with cursorX := t.regs.cursorX, cursorY := t.regs.cursorY } } ∧
  s.pending <+: t.pending ∧ (t.chunk = s.chunk ∨ t.chunk.length = s.params.chunkBytes)

/-- Doing nothing is within the frame. -/
theorem cursorFrame_refl (s : State) : CursorFrame s s := ⟨rfl, List.prefix_rfl, .inl rfl⟩

/-- The frame of two operations, one after the other. -/
theorem cursorFrame_trans {s t u : State} (h : CursorFrame s t) (k : CursorFrame t u) :
    CursorFrame s u := by
  obtain ⟨h1, h2, h3⟩ := h
  obtain ⟨k1, k2, k3⟩ := k
  refine ⟨?_, h2.trans k2, ?_⟩
  · rw [k1, h1]
  · have hp : t.params = s.params := by rw [h1]
    rcases k3 with k3 | k3
    · rcases h3 with h3 | h3
      · exact .inl (k3.trans h3)
      · exact .inr (by rw [k3, h3])
    · exact .inr (by rw [k3, hp])

/-- The frame of a loop over characters. -/
theorem cursorFrame_foldl (f : State → Nat → State) (hf : ∀ s ch, CursorFrame s (f s ch))
    (chs : List Nat) (s : State) : CursorFrame s (chs.foldl f s) := by
  induction chs generalizing s with
  | nil => exact cursorFrame_refl s
  | cons ch chs ih => exact cursorFrame_trans (hf s ch) (ih (f s ch))

/-- Drawing calls are within the frame. -/
theorem drawAll_cursorFrame (s : State) (rs : List Request) : CursorFrame s (s.drawAll rs) := by
  obtain ⟨buf, h, hb⟩ := drawAll_eq s rs
  rw [h]
  refine ⟨rfl, List.prefix_append _ _, ?_⟩
  rcases hb with hb | ⟨c, hb⟩
  · exact .inl hb
  · exact .inr (by simp [hb, Params.chunkBytes])

/-- A glyph is drawn within the frame, the registers unchanged. -/
theorem glyph_cursorFrame (s : State) (ch : Nat) : CursorFrame s (s.glyph ch) := by
  unfold State.glyph
  split
  · exact drawAll_cursorFrame s _
  · exact cursorFrame_refl s

/-- A glyph writes no register. -/
@[simp] theorem glyph_regs (s : State) (ch : Nat) : (s.glyph ch).regs = s.regs := by
  unfold State.glyph
  split <;> simp

/-- A newline is within the frame. -/
theorem newline_cursorFrame (s : State) : CursorFrame s s.newline := ⟨rfl, List.prefix_rfl, .inl rfl⟩

/-- A move of the cursor is within the frame. -/
theorem advanceCursor_cursorFrame (s : State) (ch : Nat) : CursorFrame s (s.advanceCursor ch) :=
  ⟨rfl, List.prefix_rfl, .inl rfl⟩

/-- One character is within the frame. -/
theorem putChar_cursorFrame (s : State) (ch : Nat) : CursorFrame s (s.putChar ch) := by
  unfold State.putChar
  split
  · exact cursorFrame_trans (glyph_cursorFrame s ch) (advanceCursor_cursorFrame _ ch)
  · exact cursorFrame_refl s

/-- One character of PRINT is within the frame. -/
theorem printChar_cursorFrame (s : State) (ch : Nat) : CursorFrame s (s.printChar ch) := by
  unfold State.printChar
  split
  · exact newline_cursorFrame s
  · exact putChar_cursorFrame s ch

/-- The loop of PRINT is within the frame. -/
theorem printAll_cursorFrame (s : State) (chs : List Nat) : CursorFrame s (s.printAll chs) :=
  cursorFrame_foldl _ printChar_cursorFrame chs s

/-- The loop of the string commands is within the frame. -/
theorem putAll_cursorFrame (s : State) (chs : List Nat) : CursorFrame s (s.putAll chs) :=
  cursorFrame_foldl _ putChar_cursorFrame chs s

end Sys2Proof.Machine
end

