-- ==== Sys2Proof/Laws/Hazard.lean ====
section
/-! SUPPORT. What a write of asset memory can do to the command that runs, said once. -/

namespace Sys2Proof.Machine

/-- The rest of a window is the first part of what was to be sent. -/
theorem restOfWindow_prefix (p : Params) (ts : List Txn) : restOfWindow p ts <+: ts := by
  induction ts with
  | nil => exact List.prefix_rfl
  | cons t rest ih =>
    have hc : t :: restOfWindow p rest <+: t :: rest := List.prefix_cons_iff.mpr (.inr ⟨_, rfl, ih⟩)
    unfold restOfWindow
    split
    · split
      · exact List.nil_prefix
      · exact hc
    · exact hc

/-- Either a window begins at the front, with the column-address-set command, or the front is kept. -/
theorem restOfWindow_cons (p : Params) (t : Txn) (rest : List Txn) :
    (t = .cmd p.cmdCaset ∧ restOfWindow p (t :: rest) = []) ∨
      restOfWindow p (t :: rest) = t :: restOfWindow p rest := by
  rw [restOfWindow.eq_def]
  dsimp only
  split
  · split
    · rename_i h
      exact .inl ⟨by rw [h], rfl⟩
    · exact .inr rfl
  · exact .inr rfl

/-- The offered window begins with the offered transaction. -/
theorem offeredWindow_cons (s : State) (t : Txn) (rest : List Txn) (h : s.pending = t :: rest) :
    s.offeredWindow = t :: restOfWindow s.params rest := by simp [State.offeredWindow, h]

/-- The offered window is the first part of what was to be sent. -/
theorem offeredWindow_prefix (s : State) : s.offeredWindow <+: s.pending := by
  unfold State.offeredWindow
  split
  · rename_i h; rw [h]
  · rename_i t rest h
    rw [h]
    exact List.prefix_cons_iff.mpr (.inr ⟨_, rfl, restOfWindow_prefix s.params rest⟩)

/-- What is sent whatever happens is the offered window, or nothing if the offered transaction begins it and
the adapter has nothing of it. -/
theorem committed_cases (s : State) : s.committed = s.offeredWindow ∨
    (s.transferred = 0 ∧ s.pending.head? = some (.cmd s.params.cmdCaset) ∧ s.committed = []) := by
  unfold State.committed
  split
  · rename_i h
    cases hp : s.pending with
    | nil => exact .inl (by simp [State.offeredWindow, hp, restOfWindow])
    | cons t rest =>
      rw [offeredWindow_cons s t rest hp]
      rcases restOfWindow_cons s.params t rest with ⟨ht, hr⟩ | hr
      · exact .inr ⟨h, by rw [ht]; rfl, hr⟩
      · exact .inl hr
  · exact .inl rfl

/-- What is sent whatever happens is the first part of what was to be sent. -/
theorem committed_prefix (s : State) : s.committed <+: s.pending := by
  rcases committed_cases s with h | ⟨-, -, h⟩
  · rw [h]; exact offeredWindow_prefix s
  · rw [h]; exact List.nil_prefix

/-- A torn command writes the cursor or `RESULT`, no other register. -/
theorem torn_eq (r : Registers) (i : Instr) (n : Nat) :
    r.torn i n = { r with cursorX := (r.torn i n).cursorX, cursorY := (r.torn i n).cursorY,
                          result := (r.torn i n).result } := by
  cases i <;> rfl

/-- A torn command keeps its rotation and its panel. -/
@[simp] theorem torn_rotation (r : Registers) (i : Instr) (n : Nat) :
    (r.torn i n).rotation = r.rotation := by rw [torn_eq]
@[simp] theorem torn_width (r : Registers) (i : Instr) (n : Nat) : (r.torn i n).width = r.width := by
  rw [torn_eq]
@[simp] theorem torn_height (r : Registers) (i : Instr) (n : Nat) :
    (r.torn i n).height = r.height := by rw [torn_eq]
@[simp] theorem torn_textSize (r : Registers) (i : Instr) (n : Nat) :
    (r.torn i n).textSize = r.textSize := by rw [torn_eq]

/-- The first transaction of a drawing call begins a window. -/
theorem txns_head (s : State) (r : Request) :
    r.txns s = [] ∨ ∃ us, r.txns s = .cmd s.params.cmdCaset :: us := by
  cases r with
  | pixel x y c =>
    simp only [Request.txns]
    split
    · exact .inr ⟨_, rfl⟩
    · exact .inl rfl
  | fill x y w h c =>
    simp only [Request.txns]
    split
    · exact .inl rfl
    · exact .inr ⟨_, rfl⟩

/-- The first transaction of some drawing calls begins a window. -/
theorem flatMap_txns_head (s : State) (rs : List Request) :
    rs.flatMap (Request.txns s) = [] ∨
      ∃ us, rs.flatMap (Request.txns s) = .cmd s.params.cmdCaset :: us := by
  induction rs with
  | nil => exact .inl rfl
  | cons r rs ih =>
    rw [List.flatMap_cons]
    rcases txns_head s r with h | ⟨us, h⟩
    · rw [h]; exact ih
    · rw [h]; exact .inr ⟨_, rfl⟩

/-- A torn command in full: the rest of its window, then some drawing calls, each clipped, and the offered
transaction is still the first. -/
theorem tear_eq (s : State) (i : Instr) : ∃ (kept : List Txn) (rs : List Request) (buf : List Byte), s.tear i =
    { s with
      pending := kept ++ rs.flatMap (Request.txns s)
      regs := s.regs.torn i s.free
      chunk := buf
      free := s.free + 1 } ∧
    (kept = s.committed ∨ kept = s.offeredWindow) ∧
    (s.pending ≠ [] → (kept ++ rs.flatMap (Request.txns s)).head? = s.pending.head?) ∧
    (buf = s.chunk ∨ ∃ c, buf = pattern (s.params.chunkPairs + 1) c) := by
  obtain ⟨buf, h, hb⟩ := drawAll_eq
    { s with pending := s.committed, regs := s.regs.torn i s.free, free := s.free + 1 }
    (Config.tornCalls s.free)
  have e : Request.txns
      { s with pending := s.committed, regs := s.regs.torn i s.free, free := s.free + 1 } =
      Request.txns s := by
    funext r
    exact txns_congr s _ r (torn_width _ _ _) (torn_height _ _ _) rfl
  have ho : s.offeredWindow.head? = s.pending.head? := by
    unfold State.offeredWindow
    split
    all_goals rename_i hp; rw [hp]; try rfl
  rw [e] at h
  rw [State.tear, h, State.keepOffered]
  simp only
  split
  · exact ⟨s.offeredWindow, [], buf, by simp, .inr rfl, fun _ => by simpa using ho, hb⟩
  · rename_i hne
    refine ⟨s.committed, Config.tornCalls s.free, buf, rfl, .inl rfl, fun hp => ?_, hb⟩
    rcases committed_cases s with hc | ⟨-, hh, hc⟩
    · obtain ⟨t, rest, hp⟩ := List.exists_cons_of_ne_nil hp
      rw [hc, offeredWindow_cons s t rest hp, hp]; rfl
    · rw [hc, hh]
      rw [hc] at hne
      rcases flatMap_txns_head s (Config.tornCalls s.free) with hf | ⟨us, hf⟩
      · rw [hf] at hne; exact absurd rfl hne
      · rw [hf]; rfl

/-- A write of asset memory always happens; it does something else only to a running command that reads
the byte. -/
theorem writeAsset_cases (s : State) (a : Half) (b : Byte) :
    s.writeAsset a b = { s with amem := Memory.write s.amem a b } ∨
    ∃ i, s.running = some i ∧ s.busy = true ∧ s.reads i a.toNat = true ∧
      s.writeAsset a b = State.tear { s with amem := Memory.write s.amem a b } i := by
  unfold State.writeAsset
  split
  · exact .inl rfl
  · rename_i i hr
    split
    · rename_i hh
      simp only [State.hazard, hr, Option.any_some, Bool.and_eq_true] at hh
      exact .inr ⟨i, hr, hh.1.1, hh.1.2, rfl⟩
    · exact .inl rfl

end Sys2Proof.Machine
end

