-- ==== Sys2Proof/Laws/Memory.lean ====
section
/-! SUPPORT. The sparse contents by address: a write is read back, leaves every other address alone and
keeps the canonical form. -/

namespace Sys2Proof.Machine

variable {α : Type}

/-- What is written at an address is what the address then lists. -/
@[simp] theorem cellAt_setCell_same (m : List (Nat × α)) (a : Nat) (v : α) :
    cellAt (setCell m a v) a = some v := by
  induction m with
  | nil => simp [setCell, cellAt]
  | cons e rest ih =>
    obtain ⟨b, w⟩ := e
    unfold setCell
    split
    · simp [cellAt]
    · split
      · simp [cellAt]
      · rename_i _ hne
        simp [cellAt, ih, Ne.symm hne]

/-- A write leaves what every other address lists as it was. -/
theorem cellAt_setCell_other (m : List (Nat × α)) (a b : Nat) (v : α) (h : b ≠ a) :
    cellAt (setCell m a v) b = cellAt m b := by
  induction m with
  | nil => simp [setCell, cellAt, Ne.symm h]
  | cons e rest ih =>
    obtain ⟨d, w⟩ := e
    unfold setCell
    split
    · simp [cellAt, Ne.symm h]
    · split
      · rename_i _ hda
        subst hda
        simp [cellAt, Ne.symm h]
      · simp [cellAt, ih]

/-- A write within the bounds keeps the canonical form. -/
theorem cellsWf_setCell (lo hi : Nat) (m : List (Nat × α)) (a : Nat) (v : α)
    (hm : cellsWf lo hi m = true) (hlo : lo ≤ a) (hhi : a < hi) : cellsWf lo hi (setCell m a v) = true := by
  induction m generalizing lo with
  | nil => simp [setCell, cellsWf, hlo, hhi]
  | cons e rest ih =>
    obtain ⟨b, w⟩ := e
    simp only [cellsWf, Bool.and_eq_true, decide_eq_true_eq] at hm
    unfold setCell
    split
    · rename_i hab
      simp [cellsWf, hlo, hhi, hab, hm.1.2, hm.2]
    · split
      · rename_i _ hab
        subst hab
        simp [cellsWf, hlo, hhi, hm.2]
      · simp only [cellsWf, Bool.and_eq_true, decide_eq_true_eq]
        exact ⟨hm.1, ih (b + 1) hm.2 (by omega)⟩

/-- The host's write of one byte keeps the canonical form of asset memory. -/
theorem memory_write_wf (m : List Host.Cell) (a : Half) (b : Byte) (h : Memory.wf m = true) :
    Memory.wf (Memory.write m a b) = true :=
  cellsWf_setCell 0 65536 m a.toNat b h (Nat.zero_le _) a.isLt

/-- Asset memory after reset has the canonical form. -/
theorem reset_memory_wf : Memory.wf State.reset.amem = true := rfl

/-- The byte that the host writes is the byte that is read at that address. -/
theorem memory_read_write_same (m : List Host.Cell) (a : Half) (b : Byte) :
    Memory.read (Memory.write m a b) a.toNat = b := by
  have h : a.toNat % 65536 = a.toNat := Nat.mod_eq_of_lt a.isLt
  simp [Memory.read, Memory.write, h]

/-- The host's write leaves every other byte as it reads. -/
theorem memory_read_write_other (m : List Host.Cell) (a : Half) (b : Byte) (n : Nat)
    (h : n % 65536 ≠ a.toNat) : Memory.read (Memory.write m a b) n = Memory.read m n := by
  simp [Memory.read, Memory.write, cellAt_setCell_other _ _ _ _ h]

end Sys2Proof.Machine
end

