-- ==== Sys2Proof/Laws/PerInstr.lean ====
section
/-! SUPPORT. A statement about every command, one lemma per constructor: the word of a command is one that
an assembler writes, its opcode assigned and every ignored bit zero (spec/30_encoding.md R93, R96). -/

namespace Sys2Proof.Laws.EncodingIsWellFormed

/-- The word of the command has an assigned opcode and zero in every bit the command does not use. -/
def Statement (i : Instr) : Prop := CommandWord.wf (encode i) = true

/-- For `nop`. -/
theorem nop : Statement (.nop) :=
  wf_pack _ _ _ _ _ _ _ _ _ rfl (by simp)

/-- For `setRotation`. -/
theorem setRotation (r : BitVec 2) : Statement (.setRotation r) :=
  wf_pack _ _ _ _ _ _ _ _ _ rfl (by simp)

/-- For `packRgb`. -/
theorem packRgb (r g b : Byte) : Statement (.packRgb r g b) :=
  wf_pack _ _ _ _ _ _ _ _ _ rfl (by simp)

/-- For `drawPixel`. -/
theorem drawPixel (x y : Half) (color : Colour) : Statement (.drawPixel x y color) :=
  wf_pack _ _ _ _ _ _ _ _ _ rfl (by simp)

/-- For `drawLine`. -/
theorem drawLine (x0 y0 x1 y1 : Half) (color : Colour) : Statement (.drawLine x0 y0 x1 y1 color) :=
  wf_pack _ _ _ _ _ _ _ _ _ rfl (by simp)

/-- For `drawRect`. -/
theorem drawRect (x y w h : Half) (color : Colour) : Statement (.drawRect x y w h color) :=
  wf_pack _ _ _ _ _ _ _ _ _ rfl (by simp)

/-- For `fillRect`. -/
theorem fillRect (x y w h : Half) (color : Colour) : Statement (.fillRect x y w h color) :=
  wf_pack _ _ _ _ _ _ _ _ _ rfl (by simp)

/-- For `drawCircle`. -/
theorem drawCircle (x0 y0 r : Half) (color : Colour) : Statement (.drawCircle x0 y0 r color) :=
  wf_pack _ _ _ _ _ _ _ _ _ rfl (by simp)

/-- For `fillCircle`. -/
theorem fillCircle (x0 y0 r : Half) (color : Colour) : Statement (.fillCircle x0 y0 r color) :=
  wf_pack _ _ _ _ _ _ _ _ _ rfl (by simp)

/-- For `drawBitmap`. -/
theorem drawBitmap (x y addr w h : Half) (color : Colour) : Statement (.drawBitmap x y addr w h color) :=
  wf_pack _ _ _ _ _ _ _ _ _ rfl (by simp)

/-- For `drawBitmapBg`. -/
theorem drawBitmapBg (x y addr w h : Half) (color bg : Colour) : Statement (.drawBitmapBg x y addr w h color bg) :=
  wf_pack _ _ _ _ _ _ _ _ _ rfl (by simp)

/-- For `setCursor`. -/
theorem setCursor (x y : Half) : Statement (.setCursor x y) :=
  wf_pack _ _ _ _ _ _ _ _ _ rfl (by simp)

/-- For `setTextColor`. -/
theorem setTextColor (fg : Colour) : Statement (.setTextColor fg) :=
  wf_pack _ _ _ _ _ _ _ _ _ rfl (by simp)

/-- For `setTextColorBg`. -/
theorem setTextColorBg (fg bg : Colour) : Statement (.setTextColorBg fg bg) :=
  wf_pack _ _ _ _ _ _ _ _ _ rfl (by simp)

/-- For `setTextSize`. -/
theorem setTextSize (size : Byte) : Statement (.setTextSize size) :=
  wf_pack _ _ _ _ _ _ _ _ _ rfl (by simp)

/-- For `setTextDatum`. -/
theorem setTextDatum (d : Byte) : Statement (.setTextDatum d) :=
  wf_pack _ _ _ _ _ _ _ _ _ rfl (by simp)

/-- For `setFreeFont`. -/
theorem setFreeFont (font : Half) : Statement (.setFreeFont font) :=
  wf_pack _ _ _ _ _ _ _ _ _ rfl (by simp)

/-- For `setFontSlot`. -/
theorem setFontSlot (k : Byte) (font : Half) : Statement (.setFontSlot k font) :=
  wf_pack _ _ _ _ _ _ _ _ _ rfl (by simp)

/-- For `print`. -/
theorem print (addr : Half) (len : Byte) : Statement (.print addr len) :=
  wf_pack _ _ _ _ _ _ _ _ _ rfl (by simp)

/-- For `println`. -/
theorem println (addr : Half) (len : Byte) : Statement (.println addr len) :=
  wf_pack _ _ _ _ _ _ _ _ _ rfl (by simp)

/-- For `drawString`. -/
theorem drawString (addr : Half) (len : Byte) (x y sel : Half) : Statement (.drawString addr len x y sel) :=
  wf_pack _ _ _ _ _ _ _ _ _ rfl (by simp)

/-- For `drawCentreString`. -/
theorem drawCentreString (addr : Half) (len : Byte) (x y sel : Half) : Statement (.drawCentreString addr len x y sel) :=
  wf_pack _ _ _ _ _ _ _ _ _ rfl (by simp)

end Sys2Proof.Laws.EncodingIsWellFormed
end

