-- ==== Sys2Proof/Laws/Sink.lean ====
section
/-! SUPPORT. The reference sink, byte by byte and list by list. -/

namespace Sys2Proof.Machine

/-- Nothing received, nothing changed. -/
@[simp] theorem feedBytes_nil (p : Params) (k : Sink) : k.feedBytes p [] = k := rfl

/-- The first byte, then the rest. -/
@[simp] theorem feedBytes_cons (p : Params) (k : Sink) (b : Tag × Byte) (bs : List (Tag × Byte)) :
    k.feedBytes p (b :: bs) = (k.feed p b).feedBytes p bs := rfl

/-- Two lists of bytes are received one after the other. -/
theorem feedBytes_append (p : Params) (k : Sink) (bs cs : List (Tag × Byte)) :
    k.feedBytes p (bs ++ cs) = (k.feedBytes p bs).feedBytes p cs := List.foldl_append

/-- No transaction received, nothing changed. -/
@[simp] theorem feedAll_nil (p : Params) (k : Sink) : k.feedAll p [] = k := rfl

/-- Two lists are received one after the other. -/
theorem feedAll_append (p : Params) (k : Sink) (ts us : List Txn) :
    k.feedAll p (ts ++ us) = (k.feedAll p ts).feedAll p us := by
  simp [Sink.feedAll, feedBytes_append]

/-- The first transaction, then the rest. -/
theorem feedAll_cons (p : Params) (k : Sink) (t : Txn) (ts : List Txn) :
    k.feedAll p (t :: ts) = (k.feedAll p [t]).feedAll p ts := feedAll_append p k [t] ts

/-- A sink outside its contract interprets nothing. -/
@[simp] theorem feed_outside (p : Params) (k : Sink) (b : Tag × Byte) (h : k.outside = true) :
    k.feed p b = k := by simp [Sink.feed, h]

/-- Once outside its contract, a sink stays so, byte by byte. -/
theorem feedBytes_outside (p : Params) (k : Sink) (bs : List (Tag × Byte)) (h : k.outside = true) :
    k.feedBytes p bs = k := by
  induction bs with
  | nil => rfl
  | cons b bs ih => rw [feedBytes_cons, feed_outside p k b h]; exact ih

/-- Once outside its contract, a sink stays so. -/
theorem feedAll_outside (p : Params) (k : Sink) (ts : List Txn) (h : k.outside = true) :
    k.feedAll p ts = k := feedBytes_outside p k (wire ts) h

end Sys2Proof.Machine
end

