-- ==== Sys2Proof/Laws/Step.lean ====
section
/-! SUPPORT. What a step can do, said once. -/

namespace Sys2Proof.Machine

/-- A host that holds its word: the engine takes that word. -/
theorem sampledWord_held (s : State) (cw : CommandWord) (h : s.holdsWord) : s.sampledWord cw = cw := by
  unfold State.sampledWord
  split
  · rename_i dw es hi
    exact absurd (by rw [hi]; rfl) (h dw)
  · rfl

/-- A host that holds its word: nothing else happens when it is taken. -/
theorem sampled_held (s : State) (h : s.holdsWord) : s.sampled = s := by
  unfold State.sampled
  split
  · rename_i dw es hi
    exact absurd (by rw [hi]; rfl) (h dw)
  · rfl

/-- Taking a word from the port changes at most what comes next and the counter of free values. -/
theorem sampled_eq (s : State) :
    s.sampled = { s with inputs := s.sampled.inputs, free := s.sampled.free } := by
  unfold State.sampled
  split <;> rfl

/-- The engine ready with a word on its port: it takes a word from there. -/
theorem step_ready (s : State) (cw : CommandWord) (hb : s.busy = false) (hp : s.port = some cw) :
    step s = s.sampled.acceptCommand (s.sampledWord cw) := by
  unfold step State.proceed
  rw [hb, hp]

/-- The engine ready with a word on its port that the host holds: that word is accepted. -/
theorem step_ready_held (s : State) (cw : CommandWord) (hb : s.busy = false) (hp : s.port = some cw)
    (h : s.holdsWord) : step s = s.acceptCommand cw := by
  rw [step_ready s cw hb hp, sampled_held s h, sampledWord_held s cw h]

/-- The engine busy, or no word on its port: one event happens. -/
theorem step_waiting (s : State) (h : s.busy = true ∨ s.port = none) : step s = .next s.nextEvent := by
  unfold step State.proceed
  rcases h with h | h
  · rw [h]
  · rw [h]
    split <;> simp_all

/-- If a step answers a next state, a word was accepted, or nothing was to be done, or an event happened. -/
theorem step_cases (s t : State) (h : step s = .next t) :
    (∃ cw i u, s.busy = false ∧ s.port = some cw ∧ decode (s.sampledWord cw) = .ok i ∧
      exec i (s.sampled.takeCommand (some i)) = .next u ∧ t = u.settleBusy) ∨
    (∃ cw e, s.busy = false ∧ s.port = some cw ∧ decode (s.sampledWord cw) = .error e ∧
      t = (s.sampled.takeCommand none).settleBusy) ∨
    (s.inputs = [] ∧ (s.busy = true ∨ s.port = none) ∧ t = s) ∨
    (∃ e es, s.inputs = e :: es ∧ (s.busy = true ∨ s.port = none) ∧
      t = { s with inputs := es }.handle e) := by
  by_cases hw : s.busy = true ∨ s.port = none
  · rw [step_waiting s hw] at h
    injection h with h
    unfold State.nextEvent at h
    split at h
    · rename_i hi
      exact .inr (.inr (.inl ⟨hi, hw, h.symm⟩))
    · rename_i e es hi
      exact .inr (.inr (.inr ⟨e, es, hi, hw, h.symm⟩))
  · simp only [not_or, Bool.not_eq_true, Option.ne_none_iff_exists'] at hw
    obtain ⟨hb, cw, hp⟩ := hw
    rw [step_ready s cw hb hp] at h
    unfold State.acceptCommand at h
    split at h
    · rename_i i hd
      cases he : exec i (s.sampled.takeCommand (some i)) with
      | next u =>
        rw [he] at h
        injection h with h
        exact .inl ⟨cw, i, u, hb, hp, hd, he, h.symm⟩
      | fault f => cases f
      | refused r => rw [he] at h; cases h
    · rename_i e hd
      injection h with h
      exact .inr (.inl ⟨cw, e, hb, hp, hd, h.symm⟩)

/-- What a transferred byte does: nothing when nothing is left to transfer, otherwise it reaches the sink. -/
theorem transferByte_cases (s : State) :
    s.transferByte = s ∨
    (∃ u us b, s.pending = u :: us ∧ (flat u)[s.transferred]? = some b ∧
      s.transferByte = { s with sink := s.sink.feed s.params b, transferred := s.transferred + 1 }) := by
  unfold State.transferByte
  split
  · exact .inl rfl
  · rename_i u us h
    split
    · exact .inl rfl
    · rename_i b hb
      exact .inr ⟨u, us, b, h, hb, rfl⟩

/-- A transferred byte is the first of those that were still to be sent. -/
theorem transferByte_unsent (s : State) (u : Txn) (us : List Txn) (b : Tag × Byte)
    (h : s.pending = u :: us) (hb : (flat u)[s.transferred]? = some b) :
    s.unsent = b :: s.transferByte.unsent := by
  obtain ⟨hlt, hget⟩ := List.getElem?_eq_some_iff.mp hb
  have e : wire s.pending = flat u ++ wire us := by rw [h]; rfl
  have et : s.transferByte =
      { s with sink := s.sink.feed s.params b, transferred := s.transferred + 1 } := by
    simp [State.transferByte, h, hb]
  rw [et]
  simp only [State.unsent]
  rw [e, List.drop_append_of_le_length (Nat.le_of_lt hlt), List.drop_append_of_le_length hlt,
    List.drop_eq_getElem_cons hlt, hget, List.cons_append]

/-- What an accepted transaction does: nothing when nothing is offered, otherwise the first of those still
to be emitted moves to the bus stream and what is left of it reaches the sink. -/
theorem acceptTransaction_cases (s : State) :
    (s.pending = [] ∧ s.acceptTransaction = s) ∨
    (∃ u us, s.pending = u :: us ∧ s.acceptTransaction =
      { s with
        pending := us
        transferred := 0
        bus := s.bus ++ [u]
        sink := s.sink.feedBytes s.params ((flat u).drop s.transferred)
        busy := !us.isEmpty
        running := if us.isEmpty then none else s.running }) := by
  unfold State.acceptTransaction
  split
  · rename_i h
    exact .inl ⟨h, rfl⟩
  · rename_i u us h
    exact .inr ⟨u, us, h, rfl⟩

end Sys2Proof.Machine
end

