-- ==== Sys2Proof/Tests/Slice0.lean ====
section
/-! SUPPORT. Tests on single words and single steps, their expected results taken from spec/95_test_vectors.md
and from the examples of the rules (each test names its source), and a witness for every statement that has
hypotheses. -/

namespace Sys2Proof.Tests

open Sys2Proof.Machine

/-! ### Fixtures (spec/95_test_vectors.md section 1) -/

/-- Bytes at consecutive addresses. -/
def bytesAt (a : Nat) (bs : List Byte) : List Host.Cell :=
  match bs with
  | [] => []
  | b :: rest => (a, b) :: bytesAt (a + 1) rest

/-- The fixture TESTMEM, with the bytes at 0 and 0xFFFF of vector M6. -/
def testMem : List Host.Cell :=
  [(0, 0x01)] ++
  bytesAt 0x100 [0x02, 0x00, 0x01, 0x80, 0x4B, 0x4F, 0x10, 0x00] ++
  bytesAt 0x180 [0x00, 0x00, 0x03, 0x0A, 0x07, 0x01, 0xF6, 0x00] ++
  bytesAt 0x188 [0x00, 0x04, 0x00, 0x00, 0x04, 0x00, 0x00, 0x00] ++
  bytesAt 0x190 [0x00, 0x04, 0x05, 0x03, 0x06, 0x00, 0xFD, 0x00] ++
  bytesAt 0x198 [0x00, 0x06, 0x09, 0x02, 0x0A, 0xFF, 0xFE, 0x00] ++
  bytesAt 0x1A0 [0x00, 0x09, 0x04, 0x0C, 0x08, 0x00, 0xF8, 0x00] ++
  bytesAt 0x200 [0xB7, 0x4D, 0x6D, 0xB4, 0xBB, 0x7E, 0xFF, 0xC0, 0x40, 0x69, 0x99, 0x99, 0x99, 0x99, 0x96] ++
  bytesAt 0x300 [0x4F, 0x4B] ++ bytesAt 0x310 [0x41, 0x42] ++ bytesAt 0x320 [0x4D, 0x0A, 0x4D] ++
  bytesAt 0x330 [0x4D, 0x7A, 0x4E] ++ bytesAt 0x341 [0x4D, 0x4E] ++
  bytesAt 0x400 [0xA0, 0x80, 0x40, 0x00] ++ [(0xFFFF, 0x81)]

/-- The fixture TESTROM: the glyphs 'A' and 'B'. -/
def testRom : Vector Byte 475 :=
  ⟨(List.replicate 165 0x00#8 ++
    [0x7C#8, 0x12#8, 0x11#8, 0x12#8, 0x7C#8, 0x7F#8, 0x49#8, 0x49#8, 0x49#8, 0x36#8] ++
    List.replicate 300 0x00#8).toArray, by decide +kernel⟩

/-- The vectors' parameters, `CHUNK_BYTES` = 8, with four different bytes for `MADCTL_DATA`. -/
def testParams : Params where
  cmdCaset := 0x2A#8
  cmdPaset := 0x2B#8
  cmdRamwr := 0x2C#8
  cmdMadctl := 0x36#8
  madctlData := #v[0xA0, 0xA1, 0xA2, 0xA3]
  fixedFontRom := testRom
  chunkPairs := 3
  fixedMiddleNegative := false
  orientMirrors := #v[(false, false), (true, false), (true, true), (false, true)]

/-- A sink that has received nothing, at rotation 0. -/
def testSink : Sink where
  xs := 0
  xe := 0
  ys := 0
  ye := 0
  px := 0
  py := 0
  streaming := false
  latch := none
  mac := 0xA0
  command := .idle
  args := []
  gram := []
  outside := false

/-- The reset state of the vectors. -/
def start : State where
  params := testParams
  regs := Registers.reset
  busy := false
  running := none
  chunk := [0, 0, 0, 0, 0, 0, 0, 0]
  pending := []
  transferred := 0
  bus := []
  amem := testMem
  sink := testSink
  port := none
  inputs := []
  readData := 0
  free := 0

/-- The start state with other registers. -/
def startWith (r : Registers) : State := { start with regs := r }

/-- The state that an outcome leads to. -/
def after (o : Host.Outcome State Fault Refusal) : State :=
  match o with
  | .next s => s
  | .fault f => nomatch f
  | .refused _ => start

/-- The vectors' abbreviation `px(x,y,c)`. -/
def px (x y : Half) (c : Colour) : List Txn :=
  [.cmd 0x2A, .d32 (x ++ x), .cmd 0x2B, .d32 (y ++ y), .cmd 0x2C, .d16 c]

/-- The vectors' abbreviation `fl(x,y,w,h,c)` for at most four pixels, one `Buf` of 2 × w × h bytes. -/
def fl (x y : Nat) (w h : Nat) (hi lo : Byte) : List Txn :=
  [.cmd 0x2A, .d32 (BitVec.ofNat 16 x ++ BitVec.ofNat 16 (x + w - 1)), .cmd 0x2B,
    .d32 (BitVec.ofNat 16 y ++ BitVec.ofNat 16 (y + h - 1)), .cmd 0x2C,
    .buf (List.replicate (w * h) [hi, lo]).flatten]

/-! ### Ill-formed words are refused (spec/30_encoding.md R92, R93, R98) -/

/-- A reserved opcode. -/
theorem test_wf_refuses_reserved_opcode :
    CommandWord.wf 0x03000000000000000000000000000000#128 = false := by decide
/-- A bit of `Z`. -/
theorem test_wf_refuses_low_byte :
    CommandWord.wf 0x1000050007F800000000000000000001#128 = false := by decide
/-- A bit of an unused slot. -/
theorem test_wf_refuses_unused_slot :
    CommandWord.wf 0x1000050007F800000100000000000000#128 = false := by decide
/-- A bit of the high byte of a `u8` slot. -/
theorem test_wf_refuses_high_byte_of_u8 :
    CommandWord.wf 0x23010000000000000000000000000000#128 = false := by decide
/-- A bit above a `u2` operand. -/
theorem test_wf_refuses_high_bits_of_u2 :
    CommandWord.wf 0x01000700000000000000000000000000#128 = false := by decide
/-- The word of vector X1 is well-formed. -/
theorem test_wf_accepts_assembler_word :
    CommandWord.wf 0x1000050007F800000000000000000000#128 = true := by decide

/-! ### Decoding, one word per command, written out from spec/30_encoding.md R91 and R96 -/

theorem test_decode_nop : decode 0x00000000000000000000000000000000#128 = .ok .nop := by decide
theorem test_decode_setRotation :
    decode 0x01000700000000000000000000000000#128 = .ok (.setRotation 3) := by decide
theorem test_decode_packRgb :
    decode 0x02FFFF00FE01FD000000000000000000#128 = .ok (.packRgb 255 254 253) := by decide
theorem test_decode_drawPixel :
    decode 0x1000050007F800000000000000000000#128 = .ok (.drawPixel 5 7 0xF800) := by decide
theorem test_decode_drawLine :
    decode 0x11FFFEFFFF0002000100FF0000000000#128 = .ok (.drawLine (-2) (-1) 2 1 0x00FF) := by decide
theorem test_decode_drawRect :
    decode 0x120001000200040003001F0000000000#128 = .ok (.drawRect 1 2 4 3 0x001F) := by decide
theorem test_decode_fillRect :
    decode 0x13013F0000000A000B07E00000000000#128 = .ok (.fillRect 319 0 10 11 0x07E0) := by decide
theorem test_decode_drawCircle :
    decode 0x14000A000B0003000100000000000000#128 = .ok (.drawCircle 10 11 3 1) := by decide
theorem test_decode_fillCircle :
    decode 0x15000A000B0003000100000000000000#128 = .ok (.fillCircle 10 11 3 1) := by decide
theorem test_decode_drawBitmap :
    decode 0x1800020003040000090005F800000000#128 = .ok (.drawBitmap 2 3 0x400 9 5 0xF800) := by decide
theorem test_decode_drawBitmapBg :
    decode 0x1900020004040000030005F800001F00#128 = .ok (.drawBitmapBg 2 4 0x400 3 5 0xF800 0x001F) := by
  decide
theorem test_decode_setCursor :
    decode 0x20FFFD00040000000000000000000000#128 = .ok (.setCursor (-3) 4) := by decide
theorem test_decode_setTextColor :
    decode 0x21F80000000000000000000000000000#128 = .ok (.setTextColor 0xF800) := by decide
theorem test_decode_setTextColorBg :
    decode 0x22FFFF00100000000000000000000000#128 = .ok (.setTextColorBg 0xFFFF 0x0010) := by decide
theorem test_decode_setTextSize :
    decode 0x23010300000000000000000000000000#128 = .ok (.setTextSize 3) := by decide
theorem test_decode_setTextDatum :
    decode 0x2400C800000000000000000000000000#128 = .ok (.setTextDatum 200) := by decide
theorem test_decode_setFreeFont :
    decode 0x25010000000000000000000000000000#128 = .ok (.setFreeFont 0x0100) := by decide
theorem test_decode_setFontSlot :
    decode 0x26000301000000000000000000000000#128 = .ok (.setFontSlot 3 0x0100) := by decide
theorem test_decode_print :
    decode 0x28031000020000000000000000000000#128 = .ok (.print 0x310 2) := by decide
theorem test_decode_println :
    decode 0x29031000020000000000000000000000#128 = .ok (.println 0x310 2) := by decide
theorem test_decode_drawString :
    decode 0x2A033000030014001E00040000000000#128 = .ok (.drawString 0x330 3 20 30 4) := by decide
theorem test_decode_drawCentreString :
    decode 0x2B031000020064003200010000000000#128 = .ok (.drawCentreString 0x310 2 100 50 1) := by decide

/-- A reserved opcode is named (R98, vector Y9). -/
theorem test_decode_reserved :
    decode 0xFF123456780000000000000000000000#128 = .error (.reservedOpcode 0xFF) := by decide
/-- The encoder writes the word of vector A2. -/
theorem test_encode_fillRect :
    encode (.fillRect 310 470 20 20 0xF800) = 0x13013601D600140014F8000000000000#128 := by decide
/-- A byte channel carries bits 127:120 first (R95). -/
theorem test_bytes_roundtrip :
    bytesOfWord 0x1000050007F800DEADBEEFCAFEF00DAA#128 =
      [0x10, 0x00, 0x05, 0x00, 0x07, 0xF8, 0x00, 0xDE, 0xAD, 0xBE, 0xEF, 0xCA, 0xFE, 0xF0, 0x0D, 0xAA] ∧
    wordOfBytes (bytesOfWord 0x1000050007F800DEADBEEFCAFEF00DAA#128) =
      0x1000050007F800DEADBEEFCAFEF00DAA#128 := by decide
/-- Fifteen bytes are no command word (R95). -/
theorem test_decodeBytes_short :
    decodeBytes (List.replicate 15 0) = .error (.shortWord 15) := by decide

/-! ### One step each -/

/-- Vector Y8. -/
theorem test_nop : after (exec .nop start) = start := rfl
/-- Vector A9. -/
theorem test_setRotation : (after (exec (.setRotation 1) start)).pending = [.cmd 0x36, .d8 0xA1] ∧
    (after (exec (.setRotation 1) start)).regs.width = 480 := by decide
/-- Vectors Y5 and Y3. -/
theorem test_packRgb : (after (exec (.packRgb 8 4 8) start)).regs.result = 0x0821 ∧
    (after (exec (.packRgb 0 255 0) start)).regs.result = 0x07E0 := by decide
/-- Vectors X2 and X3. -/
theorem test_drawPixel : (after (exec (.drawPixel 319 479 0x1234) start)).pending = px 319 479 0x1234 ∧
    (after (exec (.drawPixel 320 0 0xFFFF) start)).pending = [] := by decide
/-- Vector L3: steep. -/
theorem test_drawLine_steep : (after (exec (.drawLine 0 0 2 5 0xFF) start)).pending =
    px 0 0 0xFF ++ px 0 1 0xFF ++ px 1 2 0xFF ++ px 1 3 0xFF ++ px 2 4 0xFF ++ px 2 5 0xFF := by decide
/-- Vector L2: reversed endpoints. -/
theorem test_drawLine_reversed : (after (exec (.drawLine 3 1 0 0 0xFF) start)).pending =
    px 0 0 0xFF ++ px 1 0 0xFF ++ px 2 1 0xFF ++ px 3 1 0xFF := by decide
/-- Vector Q5: the sides that start left of the panel are lost. -/
theorem test_drawRect_leftEdge : (after (exec (.drawRect (-2) 3 6 4 0x1F) start)).pending =
    fl 3 3 1 4 0x00 0x1F := by decide
/-- Vector B1. -/
theorem test_fillRect_chunks : (after (exec (.fillRect 2 3 3 2 0xABCD) start)).pending =
    [.cmd 0x2A, .d32 0x00020004, .cmd 0x2B, .d32 0x00030004, .cmd 0x2C,
      .buf [0xAB, 0xCD, 0xAB, 0xCD, 0xAB, 0xCD, 0xAB, 0xCD], .buf [0xAB, 0xCD, 0xAB, 0xCD]] := by decide
/-- Vector A5: a negative origin is skipped whole. -/
theorem test_fillRect_negative : (after (exec (.fillRect (-1) 0 5 5 0xFFFF) start)).pending = [] := by
  decide
/-- Vector K2. -/
theorem test_drawCircle : (after (exec (.drawCircle 10 10 1 1) start)).pending =
    px 10 11 1 ++ px 10 9 1 ++ px 11 10 1 ++ px 9 10 1 ++ px 11 10 1 ++ px 9 10 1 ++ px 11 10 1 ++
      px 9 10 1 ++ px 10 11 1 ++ px 10 11 1 ++ px 10 9 1 ++ px 10 9 1 := by decide +kernel
/-- Vector F2. -/
theorem test_fillCircle : (after (exec (.fillCircle 10 10 1 1) start)).pending =
    fl 10 9 1 3 0 1 ++ fl 11 10 1 1 0 1 ++ fl 10 9 1 3 0 1 ++ fl 9 10 1 1 0 1 ++ fl 10 9 1 3 0 1 := by
  decide
/-- The example of R205: padded rows. -/
theorem test_drawBitmap : (after (exec (.drawBitmap 2 2 0x400 9 2 0xF800) start)).pending =
    px 2 2 0xF800 ++ px 4 2 0xF800 ++ px 10 2 0xF800 ++ px 3 3 0xF800 := by decide
/-- Vector M6: the source runs from address 0xFFFF on to address 0. -/
theorem test_drawBitmap_wraps : (after (exec (.drawBitmap 0 0 0xFFFF 16 1 0xF800) start)).pending =
    px 0 0 0xF800 ++ px 7 0 0xF800 ++ px 15 0 0xF800 := by decide
/-- The example of R206. -/
theorem test_drawBitmapBg : (after (exec (.drawBitmapBg 2 2 0x400 3 2 0xF800 0x1F) start)).pending =
    px 2 2 0xF800 ++ px 3 2 0x1F ++ px 4 2 0xF800 ++ px 2 3 0xF800 ++ px 3 3 0x1F ++ px 4 3 0x1F := by
  decide
/-- Vector E2. -/
theorem test_setCursor : ((after (exec (.setCursor (-3) 4) start)).readPort 0x05).toNat = 0xFFFD := by
  decide
/-- Vector E3. -/
theorem test_setTextColor :
    (after (exec (.setTextColor 0xF800)
      (startWith { Registers.reset with textBg := 0x10, useBg := true }))).regs =
    { Registers.reset with textFg := 0xF800, textBg := 0x10, useBg := false } := by decide
/-- Vector E5: equal colours still enable the background. -/
theorem test_setTextColorBg : (after (exec (.setTextColorBg 0x1234 0x1234) start)).regs =
    { Registers.reset with textFg := 0x1234, textBg := 0x1234, useBg := true } := by decide
/-- Vectors E6 and E7. -/
theorem test_setTextSize : (after (exec (.setTextSize 0) start)).regs.textSize = 1 ∧
    (after (exec (.setTextSize 3) start)).regs.textSize = 3 := by decide
/-- Vector E10. -/
theorem test_setTextDatum : (after (exec (.setTextDatum 200) start)).regs.datum = 200 := by decide
/-- Vector E11. -/
theorem test_setFreeFont : (after (exec (.setFreeFont 0x100) start)).readPort 0x10 = 0x100 := by decide
/-- Vectors E12 and E13. -/
theorem test_setFontSlot : (after (exec (.setFontSlot 3 0x100) start)).regs.slot3 = 0x100 ∧
    (after (exec (.setFontSlot 1 0x100) start)).regs = Registers.reset := by decide
/-- Vector G3: a variable glyph as runs. -/
theorem test_print_variable :
    (after (exec (.print 0x341 1)
      (startWith { Registers.reset with activeFont := 0x100, cursorX := 10, cursorY := 20 }))).pending =
    fl 10 17 1 1 0xFF 0xFF ++ fl 12 17 3 1 0xFF 0xFF ++ fl 11 18 2 1 0xFF 0xFF ++
      fl 14 18 1 1 0xFF 0xFF ++ [.cmd 0x2A, .d32 0x000A000E, .cmd 0x2B, .d32 0x00130013, .cmd 0x2C,
        .buf [0xFF, 0xFF, 0xFF, 0xFF, 0xFF, 0xFF, 0xFF, 0xFF], .buf [0xFF, 0xFF]] := by decide
/-- Vector G1: a fixed glyph, column by column; the first column and the end cursor. -/
theorem test_print_fixed :
    (after (exec (.print 0x310 1) start)).pending.take 30 =
      px 0 2 0xFFFF ++ px 0 3 0xFFFF ++ px 0 4 0xFFFF ++ px 0 5 0xFFFF ++ px 0 6 0xFFFF ∧
    (after (exec (.print 0x310 1) start)).regs.cursorX = 6 := by decide +kernel
/-- Vectors T20 and T25. -/
theorem test_println :
    (after (exec (.println 0x310 2)
      (startWith { Registers.reset with cursorX := 3, cursorY := 4 }))).regs.cursorY = 12 ∧
    (after (exec (.println 0x310 0)
      (startWith { Registers.reset with cursorY := 32760, textSize := 2 }))).regs.cursorY = -32760 := by
  decide +kernel
/-- Vector S4: the source's scenario; width, ascent, height and the anchored origin. -/
theorem test_drawString_anchor :
    (startWith { Registers.reset with activeFont := 0x100, datum := 4 }).measure [0x4F, 0x4B] =
      ⟨15, 10, 14⟩ ∧
    (startWith { Registers.reset with activeFont := 0x100, datum := 4 }).anchor 160 100 ⟨15, 10, 14⟩ =
      (153, 103) := by decide
/-- Vector S3. -/
theorem test_drawString_result : (after (exec (.drawString 0x310 2 0 0 0) start)).regs =
    { Registers.reset with result := 12 } := by decide +kernel
/-- Vector T26: the first set bits of 'A' at the origin (94, 50). -/
theorem test_drawCentreString :
    (after (exec (.drawCentreString 0x310 2 100 50 1) start)).pending.take 6 = px 94 52 0xFFFF ∧
    (after (exec (.drawCentreString 0x310 2 100 50 1) start)).regs.result = 12 := by decide +kernel
/-- Vector A9 on the sink: rotation 1 turns logical (0, 0) to the glass's top right (R75, R76). -/
theorem test_sink_rotation :
    ((testSink.feedAll testParams ([.cmd 0x36, .d8 0xA1] ++ px 0 0 0x1234)).cell 319 0) = 0x1234 := by
  decide
/-- U4: a pixel beyond a full window is outside the contract. R302: half a pixel before a command byte is
harmless, and the next window is painted. -/
theorem test_sink_outside :
    (testSink.feedAll testParams (px 0 0 0x1234 ++ [.d16 0])).outside = true ∧
    (testSink.feedAll testParams ((px 0 0 0x1234).take 5 ++ [.d8 0] ++ px 1 0 0x1234)).outside = false ∧
    (testSink.feedAll testParams ((px 0 0 0x1234).take 5 ++ [.d8 0] ++ px 1 0 0x1234)).cell 1 0 = 0x1234 := by
  decide
/-- R302: a reset after the first byte of a pixel leaves the controller with it. -/
theorem test_reset_within_transaction :
    (after (core.run 2 { start with
      busy := true
      pending := [.d16 0xF800]
      inputs := [.adapterTransfers, .reset]
      sink := testSink.feedAll testParams ((px 0 0 0).take 5) })).sink.latch = some 0xF8 := by decide
/-- Vector RP5 while BUSY = 1: a number outside the map reads as 0. -/
theorem test_unmapped_read_while_busy : ({ start with busy := true } : State).readPort 0x0D = 0 ∧
    ({ start with busy := true } : State).readPort 0x16 = 0 ∧
    ({ start with busy := true } : State).readPort 0xFF = 0 := by decide
/-- R308: the window that is being sent is sent to its end, and nothing after it is certain. -/
theorem test_committed : ({ start with pending := (px 1 1 1).drop 2 ++ px 2 2 2 } : State).committed =
      (px 1 1 1).drop 2 ∧
    ({ start with pending := px 1 1 1 ++ px 2 2 2 } : State).committed = [] ∧
    ({ start with pending := px 1 1 1 ++ px 2 2 2, transferred := 1 } : State).committed = px 1 1 1 := by
  decide
/-- R288: with no window left to send, the one whose first transaction is offered is sent to its end. -/
theorem test_keepOffered (t : State) (h : t.pending = []) :
    (t.keepOffered { start with pending := px 1 1 1 ++ px 2 2 2 }).pending = px 1 1 1 := by
  rw [State.keepOffered, h]; rfl
/-- R275: PRINT under the fixed font reads its string only; the font's header, its records and its bitmaps
as well under a variable one. -/
theorem test_reads : start.reads (.print 0x310 2) 0x311 = true ∧ start.reads (.print 0x310 2) 0x312 = false ∧
    (startWith { Registers.reset with activeFont := 0x100 }).reads (.print 0x341 1) 0x106 = true ∧
    (startWith { Registers.reset with activeFont := 0x100 }).reads (.print 0x341 1) 0x107 = false ∧
    (startWith { Registers.reset with activeFont := 0x100 }).reads (.print 0x341 1) 0x196 = true ∧
    (startWith { Registers.reset with activeFont := 0x100 }).reads (.print 0x341 1) 0x205 = true := by decide

/-! ### Witnesses: a state and operands that meet the hypotheses of each statement -/

/-- The word of vector X1. -/
def wordX1 : CommandWord := 0x1000050007F800000000000000000000#128

/-- The start state with a word on its port. -/
def ready (cw : CommandWord) : State := { start with port := some cw }

/-- The engine busy with the six transactions of vector X1, a second word waiting. -/
def busyX1 : State :=
  { start with
      busy := true
      running := some (.drawPixel 5 7 0xF800)
      pending := px 5 7 0xF800
      port := some wordX1 }

/-- The same, with nothing on the port and the outside world's next events given. -/
def busyThen (es : List Input) : State := { busyX1 with port := none, inputs := es }

/-- The engine busy with PRINT of the string at 0x310, the outside world's next events given. -/
def busyPrint (es : List Input) : State :=
  { busyThen es with running := some (.print 0x310 2) }

/-- The start state with the outside world's next events given. -/
def idleThen (es : List Input) : State := { start with inputs := es }

/-- The start state with the variable font of TESTMEM. -/
def withFont : State := startWith { Registers.reset with activeFont := 0x100, cursorX := 10, cursorY := 20 }

/-- For `EncodeOfDecodedAssemblerWord`. -/
theorem witness_assembler_word : CommandWord.wf wordX1 = true := by decide

/-- For `IgnoredBitsHaveNoEffect`: vectors X1 and X5. -/
theorem witness_ignored_bits : CommandWord.op wordX1 = CommandWord.op 0x1000050007F800DEADBEEFCAFEF00DAA#128 ∧
    ∀ n < 7, CommandWord.carried (CommandWord.kindOf wordX1 n) (CommandWord.slot wordX1 n) =
      CommandWord.carried (CommandWord.kindOf wordX1 n)
        (CommandWord.slot 0x1000050007F800DEADBEEFCAFEF00DAA#128 n) := by decide

/-- For `ReservedWordCompletesAtOnce`: vector Y9. -/
theorem witness_reserved_word : (ready 0xFF123456780000000000000000000000#128).busy = false ∧
    (ready 0xFF123456780000000000000000000000#128).pending = [] ∧
    (ready 0xFF123456780000000000000000000000#128).holdsWord ∧
    CommandWord.kinds (CommandWord.op 0xFF123456780000000000000000000000#128) = none :=
  ⟨rfl, rfl, nofun, by decide⟩

/-- For `StepRunsTheDecodedCommand`: a word that the host holds, one that it changes, and one that it drives
again. -/
theorem witness_step_runs : ((ready wordX1).busy = false ∧ (ready wordX1).port = some wordX1 ∧
      (ready wordX1).holdsWord ∧ decode wordX1 = .ok (.drawPixel 5 7 0xF800)) ∧
    ({ ready wordX1 with inputs := [.changeWord 0] } : State).inputs = [.changeWord 0] ∧
    ∃ t, step { ready wordX1 with inputs := [.changeWord wordX1] } = .next t ∧
      t.running = some (.drawPixel 5 7 0xF800) :=
  ⟨⟨rfl, rfl, nofun, by decide⟩, rfl, _, rfl, rfl⟩

/-- R94: the word that the host drives when `BUSY` falls is the one that runs, whatever it drove before. -/
theorem test_word_driven_last :
    (after (core.run 3 { busyX1 with
      pending := [.d16 0]
      inputs := [.present 0x20000A000B0000000000000000000000#128, .adapterAccepts] })).regs.cursorX = 10 := by
  decide

/-- For the first clause of `HeldWordWaitsWhileBusy`: an empty port, idle; a held word, busy. -/
theorem witness_present : ((idleThen [.present wordX1]).port = none ∧
      (idleThen [.present wordX1]).inputs = [.present wordX1]) ∧
    (idleThen [.changeWord wordX1]).inputs = [.changeWord wordX1] ∧
    busyX1.busy = true ∧ ({ busyX1 with inputs := [.present 0] } : State).inputs = [.present 0] :=
  ⟨⟨rfl, rfl⟩, rfl, rfl, rfl⟩

/-- For `HeldWordWaitsWhileBusy`: with nothing next, with another word, a write of asset memory or a reset
next. -/
theorem witness_held_word : busyX1.busy = true ∧ busyX1.port = some wordX1 ∧
    ((∀ dw, busyX1.inputs.head? ≠ some (.present dw)) ∧ busyX1.holdsWord ∧
      (∀ a b, busyX1.inputs.head? ≠ some (.assetWrite a b)) ∧ busyX1.noReset ∧
      ∃ t, step busyX1 = .next t) ∧
    (∃ t, step { busyX1 with inputs := [.present 0] } = .next t) ∧
    (∃ t, step { busyX1 with inputs := [.assetWrite 0 0] } = .next t) ∧
    ∃ t, step { busyX1 with inputs := [.reset] } = .next t :=
  ⟨rfl, rfl, ⟨nofun, nofun, nofun, by decide, ⟨_, rfl⟩⟩, ⟨_, rfl⟩, ⟨_, rfl⟩, ⟨_, rfl⟩⟩

/-- For `BusStreamOnlyGrows`: an acceptance, and a write of a byte that the running command reads. -/
theorem witness_bus_grows : ((busyThen [.adapterAccepts]).noReset ∧
      (∀ a b, (busyThen [.adapterAccepts]).inputs.head? ≠ some (.assetWrite a b)) ∧
      ∃ t, step (busyThen [.adapterAccepts]) = .next t) ∧
    (busyPrint [.assetWrite 0x310 0]).noReset ∧ ∃ t, step (busyPrint [.assetWrite 0x310 0]) = .next t :=
  ⟨⟨by decide, fun _ _ h => by simp [busyThen] at h, _, rfl⟩, by decide, _, rfl⟩

/-- The engine's invariant in a busy state. -/
theorem busyThen_engineInv (es : List Input) : EngineInv (busyThen es) :=
  ⟨rfl, by simp [busyThen, busyX1, start, Registers.reset], rfl, rfl, Nat.zero_le _, rfl,
    by simp [busyThen, busyX1, start, px], rfl⟩

/-- For `BusyCommandDrains`. -/
theorem witness_drains : EngineInv (busyThen (List.replicate 6 .adapterAccepts)) ∧
    (busyThen (List.replicate 6 .adapterAccepts)).busy = true ∧
    (busyThen (List.replicate 6 .adapterAccepts)).inputs =
      List.replicate (busyThen (List.replicate 6 .adapterAccepts)).pending.length .adapterAccepts ++ [] :=
  ⟨busyThen_engineInv _, rfl, rfl⟩

/-- For `StuckWithoutAcceptances`: a read of a register, a transferred byte and a write of a byte that the
running command reads; an acceptance that ends the command. -/
theorem witness_stuck : ((busyPrint [.readRegister 0, .adapterTransfers, .assetWrite 0x310 0]).busy = true ∧
      (∀ e ∈ (busyPrint [.readRegister 0, .adapterTransfers, .assetWrite 0x310 0]).inputs,
        e ≠ .adapterAccepts ∧ e ≠ .reset) ∧
      (busyPrint [.readRegister 0, .adapterTransfers, .assetWrite 0x310 0]).pending ≠ [] ∧
      ∃ t, core.run 3 (busyPrint [.readRegister 0, .adapterTransfers, .assetWrite 0x310 0]) = .next t) ∧
    (∀ a b, .assetWrite a b ∉ (busyThen [.readRegister 0, .adapterTransfers]).inputs) ∧
    ∃ t, step { busyThen [.adapterAccepts] with pending := [.d16 0xF800] } = .next t ∧ t.busy = false :=
  ⟨⟨rfl, by simp [busyPrint, busyThen], by decide, _, rfl⟩, by simp [busyThen], _, rfl, rfl⟩

/-- For `ResetLoadsTheResetValues`: busy, idle, and ready with a word on the port. -/
theorem witness_reset : ((busyThen [.reset]).inputs = [.reset] ∧ (busyThen [.reset]).busy = true) ∧
    ((idleThen [.reset]).inputs = [.reset] ∧ (idleThen [.reset]).port = none) ∧
    (ready wordX1).busy = false ∧ (ready wordX1).port = some wordX1 ∧ (ready wordX1).holdsWord :=
  ⟨⟨rfl, rfl⟩, ⟨rfl, rfl⟩, rfl, rfl, nofun⟩

/-- For `ReadPortShowsTheRegisters`: register numbers at the gaps of the map. -/
theorem witness_read_port : start.busy = false ∧
    (∀ n ∈ [0x0D#8, 0x0F#8, 0x16#8, 0xFF#8], 0x15 < n.toNat ∨ (0x0C < n.toNat ∧ n.toNat < 0x10)) ∧
    (idleThen [.readRegister 5]).inputs = [.readRegister 5] ∧ (idleThen [.readRegister 5]).port = none ∧
    (busyThen [.readRegister 5]).busy = true := ⟨rfl, by decide, rfl, rfl, rfl⟩

/-- For `AssetWriteIsSeenAndLocal`: the last address of an idle engine; a byte that the running PRINT reads,
and the first one after its string, which it does not read. -/
theorem witness_asset_write : ((idleThen [.assetWrite 0xFFFF 7]).port = none ∧
      (idleThen [.assetWrite 0xFFFF 7]).inputs = [.assetWrite 0xFFFF 7] ∧
      65536 % 65536 ≠ (0xFFFF : Half).toNat) ∧
    ((busyPrint [.assetWrite 0x311 7]).busy = true ∧
      (busyPrint [.assetWrite 0x311 7]).inputs = [.assetWrite 0x311 7] ∧
      (busyPrint [.assetWrite 0x311 7]).reads (.print 0x310 2) 0x311 = true ∧
      cellAt (busyPrint [.assetWrite 0x311 7]).amem 0x311 ≠ some 7) ∧
    start.reads (.print 0x310 2) (0x312 : Half).toNat = false ∧ ∃ t, exec (.print 0x310 2) start = .next t :=
  ⟨⟨rfl, rfl, by decide⟩, ⟨rfl, rfl, by decide, by decide⟩, by decide, _, rfl⟩

/-- For `RegistersHaveTheirOnlyWriters`: each premise is met by a writer. -/
theorem witness_writers :
    (after (exec (.setRotation 1) start)).regs.rotation ≠ start.regs.rotation ∧
    (after (exec (.setCursor 1 0) start)).regs.cursorX ≠ start.regs.cursorX ∧
    (after (exec (.setTextColor 1) start)).regs.textFg ≠ start.regs.textFg ∧
    (after (exec (.setTextColorBg 1 1) start)).regs.textBg ≠ start.regs.textBg ∧
    (after (exec (.setTextSize 2) start)).regs.textSize ≠ start.regs.textSize ∧
    (after (exec (.setTextDatum 4) start)).regs.datum ≠ start.regs.datum ∧
    (after (exec (.setFreeFont 0x100) start)).regs.activeFont ≠ start.regs.activeFont ∧
    (after (exec (.setFontSlot 5 0x100) start)).regs.slot5 ≠ start.regs.slot5 ∧
    (after (exec (.packRgb 255 0 0) start)).regs.result ≠ start.regs.result := by decide

/-- For `StepKeepsEngineInv`. -/
theorem witness_engineInv : EngineInv (busyThen [.adapterAccepts]) ∧
    ∃ t, step (busyThen [.adapterAccepts]) = .next t := ⟨busyThen_engineInv _, _, rfl⟩

/-- A sink in the middle of a pixel stream, one pixel of the window's two written, half of the next one
received. -/
def streamingSink : Sink := testSink.feedAll testParams
  [.cmd 0x2A, .d32 0x00050006, .cmd 0x2B, .d32 0x00070007, .cmd 0x2C, .d16 0xF800, .d8 0xF8]

/-- For `StepKeepsSinkInv`: an open stream. -/
theorem witness_sinkInv : SinkInv testParams streamingSink ∧ streamingSink.streaming = true ∧
    ∃ t, step { busyThen [.adapterAccepts] with sink := streamingSink } = .next t :=
  ⟨by decide, by decide, _, rfl⟩

/-- For `StepKeepsConformance`: an acceptance, a write of asset memory, a reset at rotation 0. -/
theorem witness_conformance : testParams.distinct ∧
    (∀ e ∈ [Input.adapterAccepts, .assetWrite 0 0, .reset], EngineInv (busyThen [e]) ∧
      Conforming (busyThen [e]) ∧ (busyThen [e]).sink.rotation (busyThen [e]).params = some 0) ∧
    ((busyThen [.reset]).inputs.head? = some .reset ∧ ∃ t, step (busyThen [.reset]) = .next t) :=
  ⟨by decide, fun e h => ⟨busyThen_engineInv _, by
    simp only [List.mem_cons, List.not_mem_nil, or_false] at h
    rcases h with rfl | rfl | rfl <;> decide +kernel, by
    simp only [List.mem_cons, List.not_mem_nil, or_false] at h
    rcases h with rfl | rfl | rfl <;> decide⟩, rfl, _, rfl⟩

/-- For `EveryWindowIsOnThePanel`: a command that emits; rectangles at the right and at the bottom edge. -/
theorem witness_window : (∀ r, Instr.drawPixel 319 479 1 ≠ .setRotation r) ∧
    (∃ t, exec (.drawPixel 319 479 1) start = .next t) ∧
    (start.panelWidth : Int) ≤ (320 : Half).toInt ∧ (start.panelHeight : Int) ≤ (480 : Half).toInt :=
  ⟨fun _ h => (by cases h), ⟨_, rfl⟩, by decide, by decide⟩

/-- For `DrawPixelResult`: the last pixel of the panel, and the first ones beyond its edges. -/
theorem witness_draw_pixel :
    (0 ≤ (319 : Half).toInt ∧ (319 : Half).toInt < start.regs.width.toNat ∧
      0 ≤ (479 : Half).toInt ∧ (479 : Half).toInt < start.regs.height.toNat) ∧
    ¬(320 : Half).toInt < start.regs.width.toNat ∧ ¬(480 : Half).toInt < start.regs.height.toNat ∧
    ¬0 ≤ (-1 : Half).toInt := by decide

/-- For `FillRectOnTheWire`: vectors A2 and A3. -/
theorem witness_fill_rect : clip start.panelWidth start.panelHeight 310 470 20 20 = some ⟨310, 470, 10, 10⟩ ∧
    clip start.panelWidth start.panelHeight 320 0 1 1 = none := by decide

/-- For `DrawLineResult`: a vertical line, a horizontal line, the diagonal (not steep) and the steep line of
vector L3. -/
theorem witness_draw_line : (2 : Half) = 2 ∧ ((7 : Half) ≠ 1 ∧ (3 : Half) = 3) ∧
    ((1 : Half).toInt < (4 : Half).toInt ∧ (1 : Half) ≠ 4 ∧
      |(4 : Half).toInt - (1 : Half).toInt| ≤ (4 : Half).toInt - (1 : Half).toInt) ∧
    ((0 : Half).toInt < (5 : Half).toInt ∧ (0 : Half) ≠ 2 ∧
      |(2 : Half).toInt - (0 : Half).toInt| < (5 : Half).toInt - (0 : Half).toInt) := by decide

/-- For `CircleLoopTerminates`: vector K3, the last step of radius 3. -/
theorem witness_circle_loop : (3 ≤ 4 ∧ 3 ≤ 65535) ∧
    (circleSteps 3 (Midpoint.init 3)).getLast? = some (2, 2) := by decide

/-- For `FilledCircleCoversOutline`: vectors K3 and F1. -/
theorem witness_circle_outline : Request.pixel 13 11 1 ∈ circle 10 10 3 1 := by decide

/-- For `RunLengthEquivalence`: vector G3; the box touches the panel's left edge and its top. -/
theorem witness_run_length : withFont.regs.activeFont ≠ 0 ∧ withFont.regs.textSize = 1 ∧
    0x100 = withFont.regs.activeFont.toNat ∧
    0 ≤ withFont.regs.cursorX.toInt + (withFont.glyphOf 0x100 0x4D).xOffset ∧
    0 ≤ withFont.regs.cursorY.toInt + (withFont.glyphOf 0x100 0x4D).yOffset ∧
    0 = (0 : Half).toInt + (withFont.glyphOf 0x100 0x4D).xOffset ∧
    0 = (3 : Half).toInt + (withFont.glyphOf 0x100 0x4D).yOffset := by decide

/-- For `FixedGlyphPositions`: without and with the background; some function makes the calls. -/
theorem witness_fixed_glyph : start.regs.activeFont = 0 ∧ start.regs.useBg = false ∧
    (startWith { Registers.reset with useBg := true }).regs.activeFont = 0 ∧
    ∃ call : Nat → Colour → Request, ∀ n c, call n c =
      if start.regs.textSize = 1 then
        .pixel (start.regs.cursorX.toInt + (n / 8 : Nat)) (start.regs.cursorY.toInt + (n % 8 : Nat)) c
      else .fill (start.regs.cursorX.toInt + (n / 8 : Nat) * start.regs.textSize.toNat)
        (start.regs.cursorY.toInt + (n % 8 : Nat) * start.regs.textSize.toNat)
        start.regs.textSize.toNat start.regs.textSize.toNat c :=
  ⟨rfl, rfl, rfl, _, fun _ _ => rfl⟩

/-- The variable font of TESTMEM at scale 2. -/
def scaledFont : State := startWith { Registers.reset with activeFont := 0x100, textSize := 2 }

/-- For `ScaledVariableGlyphPositions`. -/
theorem witness_scaled_glyph : scaledFont.regs.activeFont ≠ 0 ∧ scaledFont.regs.textSize ≠ 1 ∧
    0x100 = scaledFont.regs.activeFont.toNat ∧
    ∃ call : Nat → Colour → Request, ∀ k c, call k c =
      .fill (scaledFont.regs.cursorX.toInt + ((scaledFont.glyphOf 0x100 0x4D).xOffset +
          (k % (scaledFont.glyphOf 0x100 0x4D).width : Nat)) * scaledFont.regs.textSize.toNat)
        (scaledFont.regs.cursorY.toInt + ((scaledFont.glyphOf 0x100 0x4D).yOffset +
          (k / (scaledFont.glyphOf 0x100 0x4D).width : Nat)) * scaledFont.regs.textSize.toNat)
        scaledFont.regs.textSize.toNat scaledFont.regs.textSize.toNat c :=
  ⟨by decide, by decide, by decide, _, fun _ _ => rfl⟩

/-- For `AssetLayouts`: the record of the font's first code, whose address is the glyph base. -/
theorem witness_layouts : start.asset8 (0x100 + 4) ≤ 0x4B ∧
    0x180 = start.glyphBase 0x100 + (0x4B - start.asset8 (0x100 + 4)) * 8 := by decide

/-- For `CharactersOutsideTheFont`: the codes beside both ranges. -/
theorem witness_outside_font : start.regs.activeFont = 0 ∧ (31 < 32 ∧ 126 < 127) ∧
    withFont.regs.activeFont ≠ 0 ∧ (withFont.drawable 0x4B = true ∧ withFont.drawable 0x4F = true) ∧
    0x4A < withFont.asset8 (withFont.regs.activeFont.toNat + 4) ∧
    withFont.asset8 (withFont.regs.activeFont.toNat + 5) < 0x50 := by decide

/-- For `PrintResult`: a string without and one with a newline. -/
theorem witness_print : 0x0A ∉ start.characters 0x310 2 ∧ 0x0A ∈ start.characters 0x320 3 := by decide

/-- For `PrintOneCharacter`: the bounds of the length, and at length 1, 2 and 3 a drawable character, one
outside the font and a newline. -/
theorem witness_one_character : (0 < 255 ∧ 254 < 255) ∧
    (withFont.asset8 ((0x330 : Half).toNat + 0) ≠ 0x0A ∧
      withFont.drawable (withFont.asset8 ((0x330 : Half).toNat + 0)) = true) ∧
    (withFont.asset8 ((0x330 : Half).toNat + 1) ≠ 0x0A ∧
      withFont.drawable (withFont.asset8 ((0x330 : Half).toNat + 1)) = false) ∧
    withFont.asset8 ((0x31F : Half).toNat + 2) = 0x0A := by decide

/-- For `NewlineResult`. -/
theorem witness_newline : start.characters 0x321 1 = [0x0A] := by decide

/-- For `StringCommandsRestoreAndReturnWidth`. -/
theorem witness_string_command : (Instr.drawString 0x310 2 0 0 0 = .drawString 0x310 2 0 0 0) ∧
    Instr.drawCentreString 0x310 2 0 0 0 = .drawCentreString 0x310 2 0 0 0 := ⟨rfl, rfl⟩

/-- For `DrawStringPlacesItsGlyphs`: under a variable font, the source's scenario of vector S4; under the
fixed font, vector S3 and the middle class. -/
theorem witness_places_glyphs :
    ((153, 103) : Int × Int) =
      (State.selectFont (startWith { Registers.reset with slot5 := 0x100, datum := 4 }) 5).anchor 160 100
        ((State.selectFont (startWith { Registers.reset with slot5 := 0x100, datum := 4 }) 5).measure
          (start.characters 0x300 2)) ∧
    (0 : Int) = (0 : Half).toInt - (start.regs.datum.toNat % 3 : Nat) *
      (3 * start.regs.textSize.toNat * (2 : Byte).toNat : Nat) ∧
    (0 : Int) = (0 : Half).toInt + (if start.regs.datum.toNat / 3 = 1 then
      start.params.fixedMiddleSign * (4 * start.regs.textSize.toNat : Nat) else 0) ∧
    (startWith { Registers.reset with datum := 4 }).regs.datum.toNat / 3 = 1 := by decide

/-- For `VariableFontMetricsAndAnchor`: the source's string, its extent from 10 above to 4 below the baseline;
and a string with no drawable character. -/
theorem witness_metrics : withFont.regs.activeFont ≠ 0 ∧ 0x100 = withFont.regs.activeFont.toNat ∧
    (∃ ch ∈ [0x4F, 0x4B], withFont.drawable ch = true ∧ (withFont.glyphOf 0x100 ch).yOffset = -10) ∧
    (∀ ch ∈ [0x4F, 0x4B], withFont.drawable ch = true → -10 ≤ (withFont.glyphOf 0x100 ch).yOffset) ∧
    (∃ ch ∈ [0x4F, 0x4B], withFont.drawable ch = true ∧
      (withFont.glyphOf 0x100 ch).yOffset + (withFont.glyphOf 0x100 ch).height = 4) ∧
    (∀ ch ∈ [0x4F, 0x4B], withFont.drawable ch = true →
      (withFont.glyphOf 0x100 ch).yOffset + (withFont.glyphOf 0x100 ch).height ≤ 4) ∧
    ∀ ch ∈ [0x4A, 0x50], withFont.drawable ch = false := by decide

/-- R258: half the width of 12 moves x = -32765 below the 16-bit coordinates, and the origin is wrapped. -/
theorem test_centre_wraps : (start.selectFont 1).advanceSum (start.characters 0x310 2) / 2 = 6 ∧
    BitVec.ofInt 16 ((0x8003 : Half).toInt - (6 : Nat)) = (0x7FFD : Half) := by decide

/-- For `FontSelectionPolicy`: the first selector beyond the slots. -/
theorem witness_selector : 5 < (6 : Half).toNat := by decide

/-- For `DatumAboveEightActsAsBottom`: the first datum above 8. -/
theorem witness_datum : 8 < (9 : Byte).toNat := by decide

/-- For `DatumEightEndsAtTheAnchor`: vector T3. -/
theorem witness_datum_eight :
    (startWith { Registers.reset with activeFont := 0x100, datum := 8 }).regs.activeFont ≠ 0 ∧
    (startWith { Registers.reset with activeFont := 0x100, datum := 8 }).regs.datum = 8 ∧
    (145, 100) = (startWith { Registers.reset with activeFont := 0x100, datum := 8 }).anchor 160 100
      ((startWith { Registers.reset with activeFont := 0x100, datum := 8 }).measure [0x4F, 0x4B]) := by
  decide

/-- For `PhysicalMapIsABijection`: the mirrors of rotation 1; the last pixel and the last cell. -/
theorem witness_physical : testParams.orientMirrors.get (1 : BitVec 2).toFin = (true, false) ∧ 479 < u16 (panelOf 1).1 ∧ 319 < u16 (panelOf 1).2 ∧ 319 < 320 ∧ 479 < 480 := by
  decide

/-- For `DrawingCallPaintsExactlyItsPixels`: a pixel that the call paints and one that it does not; a sink
left with half a pixel. -/
theorem witness_paints : start.params.distinct ∧
    (start.regs.width, start.regs.height) = panelOf start.regs.rotation ∧
    start.sink.outside = false ∧
    start.sink.rotation start.params = some start.regs.rotation ∧
    (streamingSink.outside = false ∧ streamingSink.latch ≠ none ∧ streamingSink.rotation testParams = some 0) ∧
    (5 < start.panelWidth ∧ 7 < start.panelHeight) ∧ (Request.pixel 5 7 1).txns start ≠ [] ∧
    (Request.pixel 5 7 1).paints start.panelWidth start.panelHeight 5 7 1 ∧
    ∀ c, ¬(Request.pixel 5 7 1).paints start.panelWidth start.panelHeight 6 7 c :=
  ⟨by decide, by decide, rfl, by decide, by decide, by decide, by decide, ⟨by decide, rfl, rfl, rfl⟩,
    fun _ h => absurd h.2.1 (by decide)⟩

end Sys2Proof.Tests
end

section
/-! What a command does, said once: the drawing calls that it makes (every command but SET_ROTATION emits
through them), and the registers that it writes. -/

namespace Sys2Proof.Machine

/-! ### Commands that emit through drawing calls -/

/-- From `s` to `t` registers other than the panel's may be written, drawing calls are carried out under that
panel, which may load the chunk buffer, and nothing else changes. -/
structure DrawFrame (s t : State) : Prop where
  others : t = { s with regs := t.regs, pending := t.pending, chunk := t.chunk }
  width : t.regs.width = s.regs.width
  height : t.regs.height = s.regs.height
  pending : ∃ rs : List Request, t.pending = s.pending ++ rs.flatMap (Request.txns s)
  chunk : t.chunk = s.chunk ∨ t.chunk.length = s.params.chunkBytes

/-- A write of registers other than the panel's is within the frame. -/
theorem drawFrame_setRegs (s : State) (r : Registers) (hw : r.width = s.regs.width)
    (hh : r.height = s.regs.height) : DrawFrame s { s with regs := r } :=
  ⟨rfl, hw, hh, ⟨[], by simp⟩, .inl rfl⟩

/-- Doing nothing is within the frame. -/
theorem drawFrame_refl (s : State) : DrawFrame s s := drawFrame_setRegs s s.regs rfl rfl

/-- The frame of two operations, one after the other: the second one's calls are made under the same panel. -/
theorem drawFrame_trans {s t u : State} (h : DrawFrame s t) (k : DrawFrame t u) : DrawFrame s u := by
  have hparams : t.params = s.params := by rw [h.others]
  obtain ⟨rs, hrs⟩ := h.pending
  obtain ⟨qs, hqs⟩ := k.pending
  refine ⟨?_, k.width.trans h.width, k.height.trans h.height, ⟨rs ++ qs, ?_⟩, ?_⟩
  · rw [k.others, h.others]
  · have htx : Request.txns t = Request.txns s :=
      funext fun q => txns_congr s t q h.width h.height hparams
    rw [hqs, hrs, htx, List.flatMap_append, List.append_assoc]
  · rcases k.chunk with kc | kc
    · rw [kc]; exact h.chunk
    · exact .inr (by rw [kc, hparams])

/-- Drawing calls are within the frame. -/
theorem drawFrame_drawAll (s : State) (rs : List Request) : DrawFrame s (s.drawAll rs) := by
  refine ⟨?_, by simp, by simp, ⟨rs, drawAll_pending s rs⟩, (drawAll_cursorFrame s rs).2.2⟩
  rw [drawAll_regs]
  exact drawAll_frame s rs

/-- A newline is within the frame. -/
theorem drawFrame_newline (s : State) : DrawFrame s s.newline := drawFrame_setRegs s _ rfl rfl

/-- One character is within the frame. -/
theorem drawFrame_putChar (s : State) (ch : Nat) : DrawFrame s (s.putChar ch) := by
  unfold State.putChar State.glyph
  split
  · exact drawFrame_trans (drawFrame_drawAll s _) (drawFrame_setRegs _ _ rfl rfl)
  · exact drawFrame_refl s

/-- One character of PRINT is within the frame. -/
theorem drawFrame_printChar (s : State) (ch : Nat) : DrawFrame s (s.printChar ch) := by
  unfold State.printChar
  split
  · exact drawFrame_newline s
  · exact drawFrame_putChar s ch

/-- A loop over characters is within the frame when each turn of it is. -/
theorem drawFrame_foldl (f : State → Nat → State) (hf : ∀ s ch, DrawFrame s (f s ch)) (chs : List Nat)
    (s : State) : DrawFrame s (chs.foldl f s) := by
  induction chs generalizing s with
  | nil => exact drawFrame_refl s
  | cons ch chs ih => exact drawFrame_trans (hf s ch) (ih (f s ch))

/-- The loop of PRINT is within the frame. -/
theorem drawFrame_printAll (s : State) (chs : List Nat) : DrawFrame s (s.printAll chs) :=
  drawFrame_foldl _ drawFrame_printChar chs s

/-- The loop of the string commands is within the frame. -/
theorem drawFrame_putAll (s : State) (chs : List Nat) : DrawFrame s (s.putAll chs) :=
  drawFrame_foldl _ drawFrame_putChar chs s

/-- The string commands from the measured width on are within the frame: the cursor is written, the
characters are drawn, the saved registers are restored. -/
theorem drawFrame_drawAnchored (s : State) (saved : Registers) (chs : List Nat) (x y : Int) :
    DrawFrame s (s.drawAnchored saved chs x y) := by
  have hcursor := drawFrame_setRegs s
    (s.regs.setCursor (s.anchor x y (s.measure chs)).1 (s.anchor x y (s.measure chs)).2) rfl rfl
  have hdraw := drawFrame_trans hcursor (drawFrame_putAll _ chs)
  exact drawFrame_trans hdraw
    (drawFrame_setRegs _ (Registers.restoreText _ saved (s.measure chs).width) rfl rfl)

/-- The selection of a font is within the frame. -/
theorem drawFrame_selectFont (s : State) (sel : Nat) : DrawFrame s (s.selectFont sel) :=
  drawFrame_setRegs s _ rfl rfl

/-- Every command but SET_ROTATION is within the frame. -/
theorem exec_drawFrame {i : Instr} {s t : State} (hi : ∀ r, i ≠ .setRotation r)
    (h : exec i s = .next t) : DrawFrame s t := by
  cases i with
  | setRotation r => exact absurd rfl (hi r)
  | nop => cases h; exact drawFrame_refl s
  | packRgb | setCursor | setTextColor | setTextColorBg | setTextSize | setTextDatum | setFreeFont =>
    cases h; exact drawFrame_setRegs s _ rfl rfl
  | drawPixel x y c => cases h; exact pixel_eq_drawAll s _ _ c ▸ drawFrame_drawAll s _
  | fillRect x y w v c => cases h; exact fill_eq_drawAll s _ _ _ _ c ▸ drawFrame_drawAll s _
  | drawLine | drawRect | drawCircle | fillCircle | drawBitmap | drawBitmapBg =>
    cases h; exact drawFrame_drawAll s _
  | setFontSlot k f =>
    cases h
    exact drawFrame_setRegs s _ (setSlot_width s.regs _ f) (setSlot_height s.regs _ f)
  | print a n => cases h; exact drawFrame_printAll s _
  | println a n => cases h; exact drawFrame_trans (drawFrame_printAll s _) (drawFrame_newline _)
  | drawString | drawCentreString =>
    cases h; exact drawFrame_trans (drawFrame_selectFont s _) (drawFrame_drawAnchored _ _ _ _ _)

/-! ### The registers that a command writes -/

/-- The registers after command `i`, from the registers `r` before it, read from the register map's column of
writers (spec/10_state.md R42): the cursor of PRINT and PRINTLN and the `RESULT` of the string commands depend
on asset memory and are taken from `u`, the registers that the command leaves. -/
def Registers.afterCommand (r : Registers) (i : Instr) (u : Registers) : Registers :=
  match i with
  | .nop => r
  | .drawPixel _ _ _ | .drawLine _ _ _ _ _ | .drawRect _ _ _ _ _ | .fillRect _ _ _ _ _ => r
  | .drawCircle _ _ _ _ | .fillCircle _ _ _ _ => r
  | .drawBitmap _ _ _ _ _ _ | .drawBitmapBg _ _ _ _ _ _ _ => r
  | .setRotation q => r.setPanel q
  | .packRgb red green blue => r.setResult (zext32 (packColour red green blue))
  | .setCursor x y => r.setCursor (s16 x) (s16 y)
  | .setTextColor fg => { r with textFg := fg }.clearUseBg
  | .setTextColorBg fg bg => { r with textFg := fg, textBg := bg }.setUseBg
  | .setTextSize z => { r with textSize := if z = 0 then 1 else z }
  | .setTextDatum d => { r with datum := d }
  | .setFreeFont f => r.setFont f
  | .setFontSlot k f => r.setSlot (u8 k) f
  | .print _ _ | .println _ _ => { r with cursorX := u.cursorX, cursorY := u.cursorY }
  | .drawString _ _ _ _ _ | .drawCentreString _ _ _ _ _ => r.setResult u.result

/-- Operations within the cursor's frame write the cursor and no other register. -/
theorem CursorFrame.regs {s t : State} (h : CursorFrame s t) :
    t.regs = { s.regs with cursorX := t.regs.cursorX, cursorY := t.regs.cursorY } :=
  congrArg State.regs h.1

/-- A string command writes `RESULT` and no other register: the font that it selects and the cursor that it
moves are restored. -/
theorem drawAnchored_regs (s : State) (sel : Nat) (chs : List Nat) (x y : Int) :
    ((s.selectFont sel).drawAnchored s.regs chs x y).regs =
      s.regs.setResult (BitVec.ofNat 32 ((s.selectFont sel).measure chs).width) := by
  simp only [State.drawAnchored]
  rw [CursorFrame.regs (putAll_cursorFrame _ chs)]
  rfl

/-- The registers that a command leaves. -/
theorem exec_regs {i : Instr} {s t : State} (h : exec i s = .next t) :
    t.regs = s.regs.afterCommand i t.regs := by
  cases i with
  | drawPixel x y c => cases h; exact drawAll_regs s [.pixel _ _ c]
  | fillRect x y w v c => cases h; exact drawAll_regs s [.fill _ _ _ _ c]
  | drawLine | drawRect | drawCircle | fillCircle | drawBitmap | drawBitmapBg =>
    cases h; exact drawAll_regs s _
  | print a n => cases h; exact CursorFrame.regs (printAll_cursorFrame s _)
  | println a n =>
    cases h
    exact CursorFrame.regs (cursorFrame_trans (printAll_cursorFrame s _) (newline_cursorFrame _))
  | drawString | drawCentreString => cases h; rw [drawAnchored_regs]; rfl
  | nop | setRotation | packRgb | setCursor | setTextColor | setTextColorBg | setTextSize | setTextDatum
  | setFreeFont | setFontSlot => cases h; rfl

end Sys2Proof.Machine
end

section
/-! Settles O16: the writers of each register, by the registers that each command leaves. -/

namespace Sys2Proof.Machine

/-- What a command leaves in a register differs from what it found only if the map lists it as a writer:
one command after another, the registers that `Registers.afterCommand` does not write cannot differ. -/
theorem afterCommand_writers (i : Instr) (r u : Registers) :
    (((r.afterCommand i u).rotation, (r.afterCommand i u).width, (r.afterCommand i u).height) ≠
      (r.rotation, r.width, r.height) → ∃ q, i = .setRotation q) ∧
    (((r.afterCommand i u).cursorX, (r.afterCommand i u).cursorY) ≠ (r.cursorX, r.cursorY) →
      (∃ x y, i = .setCursor x y) ∨ (∃ a n, i = .print a n) ∨ ∃ a n, i = .println a n) ∧
    (((r.afterCommand i u).textFg, (r.afterCommand i u).useBg) ≠ (r.textFg, r.useBg) →
      (∃ fg, i = .setTextColor fg) ∨ ∃ fg bg, i = .setTextColorBg fg bg) ∧
    ((r.afterCommand i u).textBg ≠ r.textBg → ∃ fg bg, i = .setTextColorBg fg bg) ∧
    ((r.afterCommand i u).textSize ≠ r.textSize → ∃ z, i = .setTextSize z) ∧
    ((r.afterCommand i u).datum ≠ r.datum → ∃ d, i = .setTextDatum d) ∧
    ((r.afterCommand i u).activeFont ≠ r.activeFont → ∃ f, i = .setFreeFont f) ∧
    (((r.afterCommand i u).slot2, (r.afterCommand i u).slot3, (r.afterCommand i u).slot4,
        (r.afterCommand i u).slot5) ≠ (r.slot2, r.slot3, r.slot4, r.slot5) → ∃ k f, i = .setFontSlot k f) ∧
    ((r.afterCommand i u).result ≠ r.result →
      (∃ red green blue, i = .packRgb red green blue) ∨ (∃ a n x y f, i = .drawString a n x y f) ∨
        ∃ a n x y f, i = .drawCentreString a n x y f) := by
  cases i <;> simp [Registers.afterCommand]

/-- Settles O16: every command leaves the registers of `Registers.afterCommand`. -/
theorem registersHaveTheirOnlyWriters : Obligations.RegistersHaveTheirOnlyWriters := by
  intro i s t h
  rw [exec_regs h]
  exact afterCommand_writers i s.regs t.regs

end Sys2Proof.Machine
end

section
/-! Settles O18: every step keeps the engine's invariant. -/

namespace Sys2Proof.Machine

/-! ### What a command emits and leaves in the chunk buffer -/

/-- No transmitted part of a chunk buffer is empty. -/
theorem emptyBuf_notMem_chunks (buffer : List Byte) (size total : Nat) (hbuffer : buffer ≠ [])
    (hsize : 0 < size) :
    .buf [] ∉ chunks buffer size total := by
  have hpart (k : Nat) (hk : 0 < k) : buffer.take k ≠ [] := by simp [hbuffer, hk.ne']
  unfold chunks
  rw [List.mem_append, List.mem_replicate, not_or]
  refine ⟨fun h => hpart size hsize (Txn.buf.inj h.2).symm, ?_⟩
  split
  · rename_i hrest
    rw [List.mem_singleton]
    exact fun h => hpart _ hrest (Txn.buf.inj h).symm
  · exact List.not_mem_nil

/-- A window holds no `Buf`. -/
theorem buf_notMem_window (p : Params) (x0 y0 x1 y1 : Nat) (bs : List Byte) :
    .buf bs ∉ window p x0 y0 x1 y1 := by simp [window]

/-- A drawing call emits no empty `Buf`. -/
theorem emptyBuf_notMem_txns (s : State) (r : Request) : .buf [] ∉ r.txns s := by
  cases r with
  | pixel x y c =>
    simp only [Request.txns]
    split
    · simp [buf_notMem_window]
    · exact List.not_mem_nil
  | fill x y w h c =>
    simp only [Request.txns]
    split
    · exact List.not_mem_nil
    · have hpattern : pattern (s.params.chunkPairs + 1) c ≠ [] :=
        List.ne_nil_of_length_pos (by simp)
      rw [List.mem_append, not_or]
      exact ⟨buf_notMem_window _ _ _ _ _ _,
        emptyBuf_notMem_chunks _ _ _ hpattern (by simp [Params.chunkBytes])⟩

/-- Drawing calls emit no empty `Buf`. -/
theorem emptyBuf_notMem_calls (s : State) (rs : List Request) :
    .buf [] ∉ rs.flatMap (Request.txns s) := by
  simp [List.mem_flatMap, emptyBuf_notMem_txns]

/-- From `s` to `t` registers may be written, transactions are emitted, none of them an empty `Buf`, the chunk
buffer may be loaded, and nothing else changes. -/
structure CommandFrame (s t : State) : Prop where
  others : t = { s with regs := t.regs, pending := t.pending, chunk := t.chunk }
  pending : ∃ ts, t.pending = s.pending ++ ts ∧ .buf [] ∉ ts
  chunk : t.chunk = s.chunk ∨ t.chunk.length = s.params.chunkBytes

/-- Every command is within the frame. -/
theorem exec_commandFrame {i : Instr} {s t : State} (h : exec i s = .next t) : CommandFrame s t := by
  by_cases hi : ∃ r, i = .setRotation r
  · obtain ⟨r, rfl⟩ := hi
    cases h
    exact ⟨rfl, ⟨[.cmd s.params.cmdMadctl, .d8 (s.params.madctl r)], rfl, by simp⟩, .inl rfl⟩
  · have hframe := exec_drawFrame (fun r hr => hi ⟨r, hr⟩) h
    obtain ⟨rs, hrs⟩ := hframe.pending
    exact ⟨hframe.others, ⟨_, hrs, emptyBuf_notMem_calls s rs⟩, hframe.chunk⟩

/-! ### The invariant's clauses about the registers -/

/-- `WIDTH` and `HEIGHT` belong to `ROTATION`, and `TEXT_SIZE` is not 0. -/
abbrev RegistersInv (r : Registers) : Prop :=
  (r.width, r.height) = panelOf r.rotation ∧ r.textSize ≠ 0

/-- Every command keeps the registers' invariant: SET_ROTATION writes the three panel registers together, and
SET_TEXT_SIZE clamps 0 to 1. -/
theorem registersInv_afterCommand (i : Instr) (r u : Registers) (h : RegistersInv r) :
    RegistersInv (r.afterCommand i u) := by
  cases i with
  | setRotation q => exact ⟨rfl, h.2⟩
  | setTextSize z =>
    refine ⟨h.1, ?_⟩
    simp only [Registers.afterCommand]
    split
    · decide
    · assumption
  | setFontSlot k f => simpa [RegistersInv, Registers.afterCommand] using h
  | _ => exact h

/-- A command whose result was torn keeps the registers' invariant. -/
theorem registersInv_torn (i : Instr) (r : Registers) (n : Nat) (h : RegistersInv r) :
    RegistersInv (r.torn i n) := by simpa [RegistersInv] using h

/-! ### The events -/

/-- `BUSY` settled by what is still to be emitted, and no byte of that on the wire: the other clauses of the
invariant are enough. -/
theorem engineInv_settleBusy {s : State} (hregs : RegistersInv s.regs)
    (hrun : s.pending ≠ [] → s.running.isSome = true) (htransferred : s.transferred = 0)
    (hchunk : s.chunk.length = s.params.chunkBytes) (hbuf : ∀ t ∈ s.bus ++ s.pending, t ≠ .buf [])
    (hmem : Memory.wf s.amem = true) : EngineInv s.settleBusy := by
  refine ⟨hregs.1, hregs.2, rfl, ?_, ?_, hchunk, hbuf, hmem⟩
  · cases hp : s.pending with
    | nil => simp [hp]
    | cons t ts => simpa [hp] using hrun
  · simp [htransferred]

/-- An idle engine has nothing to emit. -/
theorem engineInv_idle {s : State} (h : EngineInv s) (hidle : s.busy = false) :
    s.pending = [] ∧ s.transferred = 0 := by
  obtain ⟨-, -, hbusy, -, htransferred, -⟩ := h
  have hp : s.pending = [] := by simpa [hidle] using hbusy
  exact ⟨hp, by simpa [hp] using htransferred⟩

/-- A busy engine has something to emit. -/
theorem engineInv_busy {s : State} (h : EngineInv s) (hbusy : s.busy = true) : s.pending ≠ [] := by
  obtain ⟨-, -, hb, -⟩ := h
  simpa [hbusy] using hb

/-- Taking a word from the port keeps the invariant, and the engine idle. -/
theorem engineInv_sampled {s : State} (h : EngineInv s) : EngineInv s.sampled := by
  rw [sampled_eq]; exact h

/-- Taking a word from the port leaves `BUSY` as it is. -/
theorem sampled_busy (s : State) : s.sampled.busy = s.busy := by rw [sampled_eq]

/-- A command that an idle engine runs leads to a state that meets the invariant. -/
theorem engineInv_exec {s u : State} {i : Instr} (h : EngineInv s) (hidle : s.busy = false)
    (hexec : exec i (s.takeCommand (some i)) = .next u) : EngineInv u.settleBusy := by
  obtain ⟨hpending, htransferred⟩ := engineInv_idle h hidle
  obtain ⟨hpanel, hsize, -, -, -, hchunk, hbuf, hmem⟩ := h
  have hregs := registersInv_afterCommand i s.regs u.regs ⟨hpanel, hsize⟩
  have hframe := exec_commandFrame hexec
  obtain ⟨ts, hts, hne⟩ := hframe.pending
  have hu := hframe.others
  have hparams : u.params = s.params := by rw [hu]; rfl
  have hbus : u.bus = s.bus := by rw [hu]; rfl
  have hamem : u.amem = s.amem := by rw [hu]; rfl
  refine engineInv_settleBusy ?_ (fun _ => by rw [hu]; rfl) (by rw [hu]; exact htransferred) ?_ ?_
    (hamem ▸ hmem)
  · rw [exec_regs hexec]; exact hregs
  · rw [hparams]
    exact hframe.chunk.elim (fun hc => hc ▸ hchunk) id
  · rintro t ht rfl
    rw [hbus, hts, takeCommand_pending, ← List.append_assoc, List.mem_append] at ht
    exact ht.elim (fun hold => hbuf _ hold rfl) hne

/-- A reserved word that an idle engine completes leads to a state that meets the invariant. -/
theorem engineInv_reserved {s : State} (h : EngineInv s) (hidle : s.busy = false) :
    EngineInv (s.takeCommand none).settleBusy := by
  obtain ⟨hpending, htransferred⟩ := engineInv_idle h hidle
  obtain ⟨hpanel, hsize, -, -, -, hchunk, hbuf, hmem⟩ := h
  exact engineInv_settleBusy ⟨hpanel, hsize⟩ (fun hne => absurd hpending hne) htransferred hchunk hbuf hmem

/-- A torn command keeps the invariant: the offered transaction stays, and what follows it is the rest of its
window and further drawing calls. -/
theorem engineInv_tear {s : State} (i : Instr) (h : EngineInv s) (hbusy : s.busy = true) :
    EngineInv (s.tear i) := by
  have hpending := engineInv_busy h hbusy
  obtain ⟨hpanel, hsize, -, hrun, htransferred, hchunk, hbuf, hmem⟩ := h
  obtain ⟨kept, rs, buf, heq, hkept, hhead, hloaded⟩ := tear_eq s i
  have hprefix : kept <+: s.pending := by
    rcases hkept with rfl | rfl
    · exact committed_prefix s
    · exact offeredWindow_prefix s
  have hhead := hhead hpending
  have hne : kept ++ rs.flatMap (Request.txns s) ≠ [] := by
    rwa [ne_eq, ← List.head?_eq_none_iff, hhead, List.head?_eq_none_iff]
  obtain ⟨hpanel', hsize'⟩ := registersInv_torn i s.regs s.free ⟨hpanel, hsize⟩
  rw [heq]
  refine ⟨hpanel', hsize', ?_, hrun, ?_, ?_, ?_, hmem⟩
  · simpa [hbusy] using hne
  · simpa only [hhead] using htransferred
  · rcases hloaded with rfl | ⟨c, rfl⟩
    · exact hchunk
    · simp [Params.chunkBytes]
  · rintro t ht rfl
    simp only [List.mem_append] at ht
    rcases ht with hbus | hwindow | hcalls
    · exact hbuf _ (List.mem_append_left _ hbus) rfl
    · exact hbuf _ (List.mem_append_right _ (hprefix.subset hwindow)) rfl
    · exact emptyBuf_notMem_calls s rs hcalls

/-- A write of asset memory keeps the invariant. -/
theorem engineInv_writeAsset {s : State} (a : Half) (b : Byte) (h : EngineInv s) :
    EngineInv (s.writeAsset a b) := by
  have hwritten : EngineInv { s with amem := Memory.write s.amem a b } := by
    obtain ⟨hpanel, hsize, hb, hrun, htransferred, hchunk, hbuf, hmem⟩ := h
    exact ⟨hpanel, hsize, hb, hrun, htransferred, hchunk, hbuf, memory_write_wf s.amem a b hmem⟩
  rcases writeAsset_cases s a b with heq | ⟨i, -, hbusy, -, heq⟩
  · rw [heq]; exact hwritten
  · rw [heq]; exact engineInv_tear i hwritten hbusy

/-- A transferred byte keeps the invariant: it is a byte of the offered transaction. -/
theorem engineInv_transferByte {s : State} (h : EngineInv s) : EngineInv s.transferByte := by
  rcases transferByte_cases s with heq | ⟨u, us, b, hp, hget, heq⟩
  · rw [heq]; exact h
  · obtain ⟨hpanel, hsize, hb, hrun, -, hchunk, hbuf, hmem⟩ := h
    rw [heq]
    refine ⟨hpanel, hsize, hb, hrun, ?_, hchunk, hbuf, hmem⟩
    obtain ⟨hlt, -⟩ := List.getElem?_eq_some_iff.mp hget
    simpa [hp] using hlt

/-- An accepted transaction keeps the invariant. -/
theorem engineInv_acceptTransaction {s : State} (h : EngineInv s) : EngineInv s.acceptTransaction := by
  unfold State.acceptTransaction
  split
  · exact h
  · rename_i u us hp
    obtain ⟨hpanel, hsize, hb, hrun, -, hchunk, hbuf, hmem⟩ := h
    have hbusy : s.running.isSome = true := by rw [hrun, hb, hp]; rfl
    refine engineInv_settleBusy ⟨hpanel, hsize⟩ (fun _ => hbusy) rfl hchunk ?_ hmem
    simpa [hp] using hbuf

/-- The reset registers meet the registers' invariant. -/
theorem registersInv_reset : RegistersInv Registers.reset := ⟨rfl, by decide⟩

/-- Reset establishes the invariant, with asset memory in its canonical form. -/
theorem engineInv_applyReset {s : State} (h : Memory.wf s.amem = true) : EngineInv s.applyReset :=
  ⟨registersInv_reset.1, registersInv_reset.2, rfl, rfl, Nat.le_refl 0,
    by simp [State.applyReset, chunkAfterReset, Params.chunkBytes], by simp [State.applyReset], h⟩

/-- Every event keeps the invariant. -/
theorem engineInv_handle {s : State} (e : Input) (h : EngineInv s) : EngineInv (s.handle e) := by
  cases e with
  | present cw => exact h
  | changeWord cw => exact h
  | assetWrite a b => exact engineInv_writeAsset a b h
  | readRegister n => exact h
  | adapterTransfers => exact engineInv_transferByte h
  | adapterAccepts => exact engineInv_acceptTransaction h
  | reset =>
    obtain ⟨-, -, -, -, -, -, -, hmem⟩ := h
    exact engineInv_applyReset hmem

/-- Settles O18, by what a step can do: a command accepted, a reserved word completed, nothing, or an event. -/
theorem stepKeepsEngineInv : Obligations.StepKeepsEngineInv := by
  intro s t h hstep
  rcases step_cases s t hstep with
    ⟨cw, i, u, hidle, -, -, hexec, rfl⟩ | ⟨cw, e, hidle, -, -, rfl⟩ | ⟨-, -, rfl⟩ |
    ⟨e, es, -, -, rfl⟩
  · exact engineInv_exec (engineInv_sampled h) ((sampled_busy s).trans hidle) hexec
  · exact engineInv_reserved (engineInv_sampled h) ((sampled_busy s).trans hidle)
  · exact h
  · exact engineInv_handle (s := { s with inputs := es }) e h

end Sys2Proof.Machine
end

section
/-! Settles O9: a busy engine whose adapter accepts emits its transactions in order and falls idle. -/

namespace Sys2Proof.Machine

/-- One more step of a run: the step, then the rest of the run. -/
theorem run_succ {s t : State} (n : Nat) (h : step s = .next t) : core.run (n + 1) s = core.run n t := by
  have hstep : core.step s = .next t := h
  simp only [Host.Core.run]
  rw [hstep]

/-- The step of an engine that waits for the outside world, whose next event is known. -/
theorem step_event {s : State} {e : Input} {es : List Input} (hwaiting : s.busy = true ∨ s.port = none)
    (hinputs : s.inputs = e :: es) : step s = .next (State.handle { s with inputs := es } e) := by
  rw [step_waiting s hwaiting, State.nextEvent, hinputs]

/-- The step of a busy engine whose adapter accepts the offered transaction. -/
theorem step_adapterAccepts {s : State} {u : Txn} {us : List Txn} {es : List Input} (hbusy : s.busy = true)
    (hinputs : s.inputs = .adapterAccepts :: es) (hpending : s.pending = u :: us) :
    step s = .next { s with
      inputs := es
      pending := us
      transferred := 0
      bus := s.bus ++ [u]
      sink := s.sink.feedBytes s.params ((flat u).drop s.transferred)
      busy := !us.isEmpty
      running := if us.isEmpty then none else s.running } := by
  rw [step_event (.inl hbusy) hinputs]
  simp [State.handle, State.acceptTransaction, hpending, State.settleBusy]

/-- The wire trace of a first transaction and the others. -/
theorem wire_cons (u : Txn) (us : List Txn) : wire (u :: us) = flat u ++ wire us := rfl

/-- As many acceptances as there are pending transactions, at least one, by induction on those that follow the
offered one: each acceptance offers the next, of which no byte is on the wire yet. -/
theorem run_adapterAccepts (us : List Txn) : ∀ (u : Txn) (s : State) (rest : List Input),
    s.busy = true → s.pending = u :: us → s.transferred ≤ (flat u).length →
    s.inputs = List.replicate (us.length + 1) .adapterAccepts ++ rest →
    core.run (us.length + 1) s = .next
      { s with pending := [], bus := s.bus ++ u :: us, busy := false, inputs := rest, running := none,
               transferred := 0,
               sink := s.sink.feedBytes s.params ((wire (u :: us)).drop s.transferred) } := by
  induction us with
  | nil =>
    intro u s rest hbusy hpending htransferred hinputs
    rw [List.length_nil, run_succ 0 (step_adapterAccepts hbusy hinputs hpending)]
    simp [Host.Core.run, wire]
  | cons v us ih =>
    intro u s rest hbusy hpending htransferred hinputs
    rw [run_succ _ (step_adapterAccepts hbusy hinputs hpending), List.length_cons,
      ih v _ rest rfl rfl (Nat.zero_le _) rfl]
    simp [wire_cons u, List.drop_append_of_le_length htransferred, feedBytes_append]

/-- Settles O9: by the invariant a busy engine offers a transaction, and no more of it is on the wire than it
has. -/
theorem busyCommandDrains : Obligations.BusyCommandDrains := by
  intro s rest hinv hbusy hinputs
  obtain ⟨u, us, hpending⟩ := List.exists_cons_of_ne_nil (engineInv_busy hinv hbusy)
  obtain ⟨-, -, -, -, htransferred, -⟩ := hinv
  simp only [hpending, List.head?_cons, Option.map_some, Option.getD_some] at htransferred
  simp only [hpending, List.length_cons] at hinputs ⊢
  exact run_adapterAccepts us u s rest hbusy hpending htransferred hinputs

end Sys2Proof.Machine
end

section
/-! Settles O17 and O12: the state after reset, and the read port. -/

namespace Sys2Proof.Machine

/-! ### After reset -/

/-- The engine's invariant holds after reset. -/
theorem engineInv_reset : EngineInv State.reset :=
  ⟨registersInv_reset.1, registersInv_reset.2, rfl, rfl, Nat.le_refl 0,
    by simp [State.reset, chunkAfterReset, Params.chunkBytes], by simp [State.reset], reset_memory_wf⟩

/-- The sink's invariant holds as long as the sink has received nothing: no stream is open. -/
theorem sinkInv_initial (p : Params) : SinkInv p (Sink.initial p) := ⟨rfl, nofun⟩

/-- A sink that has received nothing is at rotation 0, whatever the other bytes of `MADCTL_DATA` are. -/
theorem rotation_initial (p : Params) : (Sink.initial p).rotation p = some 0 := by
  have hmac : (Sink.initial p).mac = p.madctl 0 := rfl
  simp [Sink.rotation, hmac]

/-- The sink conforms to the engine after reset: nothing is still to be sent. -/
theorem conforming_reset : Conforming State.reset := by
  have hunsent : State.reset.unsent = [] := rfl
  simp only [Conforming, hunsent, List.take_nil, feedBytes_nil]
  exact ⟨rfl, rotation_initial Config.params, fun _ _ _ => rotation_initial Config.params⟩

/-- Settles O17. -/
theorem resetMeetsTheInvariants : Obligations.ResetMeetsTheInvariants :=
  ⟨engineInv_reset, sinkInv_initial Config.params, conforming_reset⟩

/-! ### The read port -/

/-- An idle engine's read port shows the register map. -/
theorem readPort_idle {s : State} (n : Byte) (h : s.busy = false) : s.readPort n = s.register n := by
  simp [State.readPort, h]

/-- A number that is not in the map reads as 0, idle or busy. -/
theorem readPort_unmapped (s : State) (n : Byte)
    (h : 0x15 < n.toNat ∨ (0x0C < n.toNat ∧ n.toNat < 0x10)) : s.readPort n = 0 := by
  have hmapped : mapped n = false := by
    simp only [mapped, decide_eq_false_iff_not]
    omega
  have hregister : s.register n = 0 := by
    unfold State.register
    split
    case h_20 => rfl
    all_goals omega
  simp [State.readPort, hmapped, hregister]

/-- STATUS reads as `BUSY`, idle or busy. -/
theorem readPort_status (s : State) : (s.readPort 0).toNat = s.busy.toNat := by
  have hstatus : s.readPort 0 = s.status := by simp [State.readPort, mapped, State.register]
  rw [hstatus, State.status]
  cases s.busy <;> rfl

/-- TEXT_FLAGS reads as `USE_BG`. -/
theorem textFlags_toNat (r : Registers) : r.textFlags.toNat = r.useBg.toNat := by
  rw [Registers.textFlags]
  cases r.useBg <;> rfl

/-- Settles O12, by the register map of an idle engine and by what a read of any other number gives. -/
theorem readPortShowsTheRegisters : Obligations.ReadPortShowsTheRegisters := by
  refine ⟨fun s hidle => ?_, readPort_unmapped, readPort_status, fun s n es hinputs hwaiting => ?_⟩
  · simp only [List.map_cons, List.map_nil, readPort_idle _ hidle]
    simp [State.register, State.status, hidle, zext32, Registers.slot, textFlags_toNat,
      -BitVec.toNat_setWidth, BitVec.toNat_setWidth_of_le]
  · exact step_event hwaiting hinputs

end Sys2Proof.Machine
end

section
/-! Settles O22: two runs of a command that differ in the size and the contents of the chunk buffer go on in
step; a fill's pixels are the same bytes on the wire however they are cut into chunks. -/

namespace Sys2Proof.Machine

/-! ### A fill's pixels on the wire -/

/-- Pixels of one colour, some and then some more. -/
theorem pixelBytes_add (m n : Nat) (c : Colour) :
    pixelBytes (m + n) c = pixelBytes m c ++ pixelBytes n c := by
  rw [pixelBytes, List.replicate_add, List.flatten_append]; rfl

/-- `m` times `n` pixels of one colour. -/
theorem flatten_replicate_pixelBytes (m n : Nat) (c : Colour) :
    (List.replicate m (pixelBytes n c)).flatten = pixelBytes (m * n) c := by
  induction m with
  | zero => simp [pixelBytes]
  | succ m ih => rw [List.replicate_succ, List.flatten_cons, ih, ← pixelBytes_add, Nat.succ_mul, Nat.add_comm]

/-- The first pixels of a pattern. -/
theorem take_pattern (m n : Nat) (c : Colour) (h : m ≤ n) : (pattern n c).take (2 * m) = pattern m c := by
  obtain ⟨k, rfl⟩ := Nat.exists_eq_add_of_le h
  have hsplit : pattern (m + k) c = pattern m c ++ pattern k c := by
    rw [pattern, List.replicate_add, List.flatten_append]; rfl
  rw [hsplit, List.take_left' (pattern_length m c)]

/-- A pattern on the wire. -/
theorem flat_buf_pattern (n : Nat) (c : Colour) : flat (.buf (pattern n c)) = pixelBytes n c := by
  simp [flat, pattern, pixelBytes, colourBytes, List.map_flatten]

/-- `n` pixels sent through a chunk buffer of any size that holds their colour: the wire shows the pixels, and
not the size (spec/42_block_fill.md R173). -/
theorem wire_chunks_pattern (k n : Nat) (c : Colour) :
    wire (chunks (pattern (k + 1) c) (2 * (k + 1)) (n * 2)) = pixelBytes n c := by
  have hfull : (pattern (k + 1) c).take (2 * (k + 1)) = pattern (k + 1) c := take_pattern _ _ c (Nat.le_refl _)
  have hdiv : n * 2 / (2 * (k + 1)) = n / (k + 1) := by
    rw [Nat.mul_comm n 2, Nat.mul_div_mul_left _ _ (by omega)]
  have hmod : n * 2 % (2 * (k + 1)) = 2 * (n % (k + 1)) := by
    rw [Nat.mul_comm n 2, Nat.mul_mod_mul_left]
  have hrest : (pattern (k + 1) c).take (2 * (n % (k + 1))) = pattern (n % (k + 1)) c :=
    take_pattern _ _ c (Nat.mod_lt _ (Nat.succ_pos k)).le
  have hwhole : wire (List.replicate (n / (k + 1)) (.buf (pattern (k + 1) c))) =
      pixelBytes (n / (k + 1) * (k + 1)) c := by
    rw [← flatten_replicate_pixelBytes, ← flat_buf_pattern]
    simp [wire, List.flatMap_def]
  have hremainder : wire (if 2 * (n % (k + 1)) > 0 then [.buf (pattern (n % (k + 1)) c)] else []) =
      pixelBytes (n % (k + 1)) c := by
    split
    · rw [← flat_buf_pattern]; simp [wire]
    · have hzero : n % (k + 1) = 0 := by omega
      rw [hzero]; rfl
  rw [chunks, hdiv, hmod, hfull, hrest, wire_append, hwhole, hremainder, ← pixelBytes_add,
    Nat.div_add_mod']

/-! ### Two runs side by side -/

/-- The state `t` differs from `s` in the chunk buffer and its size and in how what is still to be emitted is
cut into transactions, not in its wire trace. -/
structure ChunkTwin (s t : State) : Prop where
  others : t = { s with
    params := { s.params with chunkPairs := t.params.chunkPairs }
    chunk := t.chunk
    pending := t.pending }
  wire_eq : wire t.pending = wire s.pending

/-- A drawing call's wire trace does not depend on the chunk size. -/
theorem wire_txns_twin {s t : State} (h : ChunkTwin s t) (r : Request) :
    wire (r.txns t) = wire (r.txns s) := by
  rw [h.others]
  cases r with
  | pixel x y c => rfl
  | fill x y w v c =>
    simp only [Request.txns, State.panelWidth, State.panelHeight]
    split
    · rfl
    · simp only [wire_append, Params.chunkBytes, wire_chunks_pattern]
      rfl

/-- Registers written alike. -/
theorem chunkTwin_setRegs {s t : State} (h : ChunkTwin s t) {q r : Registers} (hqr : q = r) :
    ChunkTwin { s with regs := q } { t with regs := r } :=
  ⟨by rw [hqr, h.others], h.wire_eq⟩

/-- The same drawing calls. -/
theorem chunkTwin_drawAll {s t : State} (h : ChunkTwin s t) (rs : List Request) :
    ChunkTwin (s.drawAll rs) (t.drawAll rs) := by
  refine ⟨?_, ?_⟩
  · rw [drawAll_frame t, drawAll_frame s, h.others]
  · have hcalls : wire (rs.flatMap (Request.txns t)) = wire (rs.flatMap (Request.txns s)) := by
      simp only [wire, List.flatMap_assoc]
      exact List.flatMap_congr fun r _ => wire_txns_twin h r
    rw [drawAll_pending, drawAll_pending, wire_append, wire_append, h.wire_eq, hcalls]

/-! What the engine reads of its state is the same in both runs, since no read goes to the chunk buffer, to
its size or to what is still to be emitted. -/

section Reads

variable {s t : State} (h : ChunkTwin s t)

include h

theorem chunkTwin_regs : t.regs = s.regs := by rw [h.others]
theorem chunkTwin_drawable : t.drawable = s.drawable := by rw [h.others]; rfl
theorem chunkTwin_advance : t.advance = s.advance := by rw [h.others]; rfl
theorem chunkTwin_glyphRequests : t.glyphRequests = s.glyphRequests := by rw [h.others]; rfl
theorem chunkTwin_lineAdvance : t.lineAdvance = s.lineAdvance := by rw [h.others]; rfl
theorem chunkTwin_characters : t.characters = s.characters := by rw [h.others]; rfl
theorem chunkTwin_measure : t.measure = s.measure := by rw [h.others]; rfl
theorem chunkTwin_anchor : t.anchor = s.anchor := by rw [h.others]; rfl
theorem chunkTwin_blit : t.blit = s.blit := by rw [h.others]; rfl

end Reads

/-- A newline in both runs. -/
theorem chunkTwin_newline {s t : State} (h : ChunkTwin s t) : ChunkTwin s.newline t.newline :=
  chunkTwin_setRegs h (by rw [chunkTwin_regs h, chunkTwin_lineAdvance h])

/-- The same character in both runs. -/
theorem chunkTwin_putChar {s t : State} (h : ChunkTwin s t) (ch : Nat) :
    ChunkTwin (s.putChar ch) (t.putChar ch) := by
  unfold State.putChar State.glyph
  rw [chunkTwin_drawable h, chunkTwin_glyphRequests h]
  split
  · have hglyph := chunkTwin_drawAll h (s.glyphRequests ch)
    exact chunkTwin_setRegs hglyph (by rw [chunkTwin_regs hglyph, chunkTwin_advance hglyph])
  · exact h

/-- The same character of PRINT in both runs. -/
theorem chunkTwin_printChar {s t : State} (h : ChunkTwin s t) (ch : Nat) :
    ChunkTwin (s.printChar ch) (t.printChar ch) := by
  unfold State.printChar
  split
  · exact chunkTwin_newline h
  · exact chunkTwin_putChar h ch

/-- The same loop over characters in both runs. -/
theorem chunkTwin_foldl (f : State → Nat → State)
    (hf : ∀ {s t}, ChunkTwin s t → ∀ ch, ChunkTwin (f s ch) (f t ch)) (chs : List Nat) {s t : State}
    (h : ChunkTwin s t) : ChunkTwin (chs.foldl f s) (chs.foldl f t) := by
  induction chs generalizing s t with
  | nil => exact h
  | cons ch chs ih => exact ih (hf h ch)

/-- The loop of PRINT in both runs, each with the characters that it reads. -/
theorem chunkTwin_printAll {s t : State} (h : ChunkTwin s t) (a n : Nat) :
    ChunkTwin (s.printAll (s.characters a n)) (t.printAll (t.characters a n)) := by
  rw [chunkTwin_characters h]
  exact chunkTwin_foldl _ chunkTwin_printChar _ h

/-- The loop of the string commands in both runs. -/
theorem chunkTwin_putAll {s t : State} (h : ChunkTwin s t) (chs : List Nat) :
    ChunkTwin (s.putAll chs) (t.putAll chs) := chunkTwin_foldl _ chunkTwin_putChar chs h

/-- The selection of a font in both runs. -/
theorem chunkTwin_selectFont {s t : State} (h : ChunkTwin s t) (sel : Nat) :
    ChunkTwin (s.selectFont sel) (t.selectFont sel) :=
  chunkTwin_setRegs h (by rw [chunkTwin_regs h])

/-- The string commands from the measured width on, in both runs. -/
theorem chunkTwin_drawAnchored {s t : State} (h : ChunkTwin s t) (saved : Registers) (chs : List Nat)
    (x y : Int) : ChunkTwin (s.drawAnchored saved chs x y) (t.drawAnchored saved chs x y) := by
  simp only [State.drawAnchored]
  rw [chunkTwin_measure h, chunkTwin_anchor h]
  have hcursor := chunkTwin_setRegs h
    (q := s.regs.setCursor (s.anchor x y (s.measure chs)).1 (s.anchor x y (s.measure chs)).2)
    (by rw [← chunkTwin_regs h])
  have hdraw := chunkTwin_putAll hcursor chs
  exact chunkTwin_setRegs hdraw (by rw [chunkTwin_regs hdraw])

/-- The same command in both runs. -/
theorem exec_chunkTwin (i : Instr) {s t : State} (h : ChunkTwin s t) :
    ∃ u v, exec i s = .next u ∧ exec i t = .next v ∧ ChunkTwin u v := by
  cases i with
  | nop => exact ⟨s, t, rfl, rfl, h⟩
  | setRotation q =>
    refine ⟨_, _, rfl, rfl, ?_, ?_⟩
    · rw [h.others]; rfl
    · rw [emit_pending, emit_pending, wire_append, wire_append, h.wire_eq, h.others]; rfl
  | packRgb | setCursor | setTextColor | setTextColorBg | setTextSize | setTextDatum | setFreeFont
  | setFontSlot => exact ⟨_, _, rfl, rfl, chunkTwin_setRegs h (by rw [chunkTwin_regs h])⟩
  | drawPixel x y c => exact ⟨_, _, rfl, rfl, chunkTwin_drawAll h [.pixel _ _ c]⟩
  | fillRect x y w v c => exact ⟨_, _, rfl, rfl, chunkTwin_drawAll h [.fill _ _ _ _ c]⟩
  | drawLine | drawRect | drawCircle | fillCircle =>
    exact ⟨_, _, rfl, rfl, chunkTwin_drawAll h _⟩
  | drawBitmap | drawBitmapBg =>
    exact ⟨_, _, rfl, rfl, chunkTwin_blit h ▸ chunkTwin_drawAll h _⟩
  | print a n => exact ⟨_, _, rfl, rfl, chunkTwin_printAll h _ _⟩
  | println a n => exact ⟨_, _, rfl, rfl, chunkTwin_newline (chunkTwin_printAll h _ _)⟩
  | drawString a n x y f =>
    refine ⟨_, _, rfl, rfl, ?_⟩
    rw [chunkTwin_regs h, chunkTwin_characters h]
    exact chunkTwin_drawAnchored (chunkTwin_selectFont h _) _ _ _ _
  | drawCentreString a n x y f =>
    refine ⟨_, _, rfl, rfl, ?_⟩
    rw [chunkTwin_regs h, chunkTwin_characters h, chunkTwin_measure (chunkTwin_selectFont h _)]
    exact chunkTwin_drawAnchored (chunkTwin_selectFont h _) _ _ _ _

/-- Settles O22: the run with the other buffer and the other size is a twin of the first, before the command
and so after it. -/
theorem chunkBufferIsInvisible : Obligations.ChunkBufferIsInvisible := by
  intro i s n buffer
  have hstart : ChunkTwin s { s with params := { s.params with chunkPairs := n }, chunk := buffer } :=
    ⟨rfl, rfl⟩
  obtain ⟨t, u, ht, hu, htwin⟩ := exec_chunkTwin i hstart
  exact ⟨t, u, ht, hu, htwin.wire_eq, chunkTwin_regs htwin⟩

end Sys2Proof.Machine
end

section
/-! Settles O59: the map from the logical pixels of a panel to the cells of the glass, and its inverse. -/

namespace Sys2Proof.Machine

/-- The panel's width at a rotation is the glass's long side exactly if the rotation swaps the coordinates. -/
theorem panel_width (p : Params) (r : BitVec 2) :
    u16 (panelOf r).1 = if (p.orient r).1 then 480 else 320 := by
  have h : ∀ r : BitVec 2, u16 (panelOf r).1 = if r.toNat % 2 == 1 then 480 else 320 := by decide
  exact h r

/-- The panel's height at a rotation is the glass's other side. -/
theorem panel_height (p : Params) (r : BitVec 2) :
    u16 (panelOf r).2 = if (p.orient r).1 then 320 else 480 := by
  have h : ∀ r : BitVec 2, u16 (panelOf r).2 = if r.toNat % 2 == 1 then 320 else 480 := by decide
  exact h r

/-- The coordinates are swapped for rotations 1 and 3. -/
theorem orient_swap (p : Params) (r : BitVec 2) : (p.orient r).1 = true ↔ r = 1 ∨ r = 3 := by
  have h : ∀ r : BitVec 2, (r.toNat % 2 == 1) = true ↔ r = 1 ∨ r = 3 := by decide
  exact h r

/-- A mirrored coordinate is within its axis. -/
theorem mirror_lt (on : Bool) {size v : Nat} (h : v < size) : mirror on size v < size := by
  cases on
  · exact h
  · simp only [mirror, if_true]; omega

/-- Mirroring twice gives the coordinate back. -/
theorem mirror_mirror (on : Bool) {size v : Nat} (h : v < size) :
    mirror on size (mirror on size v) = v := by
  cases on
  · rfl
  · simp only [mirror, if_true]; omega

/-- The logical pixel of a physical cell under (swap, mirror_x, mirror_y). -/
def logical (o : Bool × Bool × Bool) (pcol prow : Nat) : Nat × Nat :=
  if o.1 then (mirror o.2.2 480 prow, mirror o.2.1 320 pcol)
  else (mirror o.2.1 320 pcol, mirror o.2.2 480 prow)

/-- A pixel of the panel goes to a cell of the glass. -/
theorem physical_lt (p : Params) (r : BitVec 2) {x y : Nat} (hx : x < u16 (panelOf r).1)
    (hy : y < u16 (panelOf r).2) :
    (physical (p.orient r) x y).1 < 320 ∧ (physical (p.orient r) x y).2 < 480 := by
  rw [panel_width p] at hx
  rw [panel_height p] at hy
  unfold physical
  cases hswap : (p.orient r).1 <;> simp only [hswap, if_true, Bool.false_eq_true, if_false] at hx hy ⊢
  · exact ⟨mirror_lt _ hx, mirror_lt _ hy⟩
  · exact ⟨mirror_lt _ hy, mirror_lt _ hx⟩

/-- A cell of the glass comes from a pixel of the panel. -/
theorem logical_lt (p : Params) (r : BitVec 2) {pcol prow : Nat} (hcol : pcol < 320) (hrow : prow < 480) :
    (logical (p.orient r) pcol prow).1 < u16 (panelOf r).1 ∧
      (logical (p.orient r) pcol prow).2 < u16 (panelOf r).2 := by
  rw [panel_width p, panel_height p]
  unfold logical
  cases (p.orient r).1
  · exact ⟨mirror_lt _ hcol, mirror_lt _ hrow⟩
  · exact ⟨mirror_lt _ hrow, mirror_lt _ hcol⟩

/-- The cell of the pixel of a cell is that cell. -/
theorem physical_logical (o : Bool × Bool × Bool) {pcol prow : Nat} (hcol : pcol < 320) (hrow : prow < 480) :
    physical o (logical o pcol prow).1 (logical o pcol prow).2 = (pcol, prow) := by
  obtain ⟨swap, mirrorX, mirrorY⟩ := o
  cases swap <;> simp [physical, logical, mirror_mirror, hcol, hrow]

/-- The pixel of the cell of a pixel is that pixel. -/
theorem logical_physical (p : Params) (r : BitVec 2) {x y : Nat} (hx : x < u16 (panelOf r).1)
    (hy : y < u16 (panelOf r).2) :
    logical (p.orient r) (physical (p.orient r) x y).1 (physical (p.orient r) x y).2 = (x, y) := by
  rw [panel_width p] at hx
  rw [panel_height p] at hy
  unfold logical physical
  cases hswap : (p.orient r).1 <;> simp only [hswap, if_true, Bool.false_eq_true, if_false] at hx hy ⊢ <;>
    rw [mirror_mirror _ hx, mirror_mirror _ hy]

/-- Two pixels of the panel have two cells. -/
theorem physical_injective (p : Params) (r : BitVec 2) {x y x' y' : Nat} (hx : x < u16 (panelOf r).1)
    (hy : y < u16 (panelOf r).2) (hx' : x' < u16 (panelOf r).1) (hy' : y' < u16 (panelOf r).2)
    (h : physical (p.orient r) x y = physical (p.orient r) x' y') : x = x' ∧ y = y' := by
  have hlogical := logical_physical p r hx hy
  rw [h, logical_physical p r hx' hy', Prod.mk.injEq] at hlogical
  exact ⟨hlogical.1.symm, hlogical.2.symm⟩

/-- Settles O59: the inverse is `logical`. -/
theorem physicalMapIsABijection : Obligations.PhysicalMapIsABijection := by
  refine ⟨by decide, fun p r mirrorX mirrorY x y hmirrors => ?_, fun p r => ⟨?_, ?_⟩⟩
  · have horient : p.orient r = ((p.orient r).1, mirrorX, mirrorY) := by simp [Params.orient, hmirrors]
    rw [horient]
    simp only [physical, mirror, orient_swap]
  · exact fun x y hx hy => physical_lt p r hx hy
  · intro pcol prow hcol hrow
    obtain ⟨hx, hy⟩ := logical_lt p r hcol hrow
    have hcell := physical_logical (p.orient r) hcol hrow
    refine ⟨logical (p.orient r) pcol prow, ⟨hx, hy, hcell⟩, ?_⟩
    rintro ⟨x, y⟩ ⟨hx', hy', hq⟩
    exact Prod.ext_iff.mpr (physical_injective p r hx' hy' hx hy (hq.trans hcell.symm))

end Sys2Proof.Machine
end

section
/-! Settles O19: every byte that the reference sink receives keeps its invariant, and a step sends it bytes. -/

namespace Sys2Proof.Machine

/-- The number of a cell of the glass is one of the 153600. -/
theorem cellNumber_lt {c : Nat × Nat} (hcol : c.1 < 320) (hrow : c.2 < 480) : cellNumber c < 153600 := by
  unfold cellNumber; omega

/-- A window's bounds are in order and on the panel of a rotation. -/
theorem windowOk_iff (k : Sink) (r : BitVec 2) : k.windowOk r = true ↔
    u16 k.xs ≤ u16 k.xe ∧ u16 k.ys ≤ u16 k.ye ∧ u16 k.xe < u16 (panelOf r).1 ∧
      u16 k.ye < u16 (panelOf r).2 := by
  simp [Sink.windowOk, and_assoc]

/-! ### The pixel stream -/

/-- A sink with no open stream meets the invariant by its frame memory alone. -/
theorem sinkInv_closed {p : Params} {k : Sink} (hgram : cellsWf 0 153600 k.gram = true)
    (hclosed : k.streaming = false) : SinkInv p k := ⟨hgram, by simp [hclosed]⟩

/-- The stream opens at the first pixel of a window on the panel of a known rotation, or not at all. -/
theorem sinkInv_begin {p : Params} {k : Sink} (hgram : cellsWf 0 153600 k.gram = true)
    (hclosed : k.streaming = false) (hidle : k.command = .idle) : SinkInv p (k.begin p) := by
  unfold Sink.begin
  split
  · exact sinkInv_closed hgram hclosed
  · rename_i r hrotation
    split
    · rename_i hwindow
      obtain ⟨hx, hy, -, -⟩ := (windowOk_iff k r).mp hwindow
      refine ⟨hgram, fun _ => ⟨hidle, ?_, Nat.le_refl _, hx, Nat.le_refl _, Nat.le_succ_of_le hy⟩⟩
      change (k.rotation p).any k.windowOk = true
      rw [hrotation]
      exact hwindow
    · exact sinkInv_closed hgram hclosed

/-- The pointer's move keeps it in the window, or puts it at the start of the row below it. -/
theorem sinkInv_advance {p : Params} {k : Sink} (h : SinkInv p k) (hrow : k.py ≤ u16 k.ye) :
    SinkInv p k.advance := by
  obtain ⟨hgram, hopen⟩ := h
  unfold Sink.advance
  split
  · refine ⟨hgram, fun hstreaming => ?_⟩
    obtain ⟨hidle, hwindow, hxs, -, hys, hye⟩ := hopen hstreaming
    exact ⟨hidle, hwindow, by simp only; omega, by simp only; omega, hys, hye⟩
  · refine ⟨hgram, fun hstreaming => ?_⟩
    obtain ⟨hidle, hwindow, hxs, hxe, hys, hye⟩ := hopen hstreaming
    exact ⟨hidle, hwindow, Nat.le_refl _, hxs.trans hxe, by simp only; omega, by simp only; omega⟩

/-- A stored pixel of an open stream goes to a cell of the glass, and the pointer moves on in the window. -/
theorem sinkInv_store {p : Params} {k : Sink} (c : Colour) (h : SinkInv p k) (hstreaming : k.streaming = true) :
    SinkInv p (k.store p c) := by
  obtain ⟨hgram, hopen⟩ := h
  unfold Sink.store
  split
  · exact ⟨hgram, hopen⟩
  · rename_i r hrotation
    split
    · exact ⟨hgram, hopen⟩
    · rename_i hrow
      obtain ⟨-, hwindow, -, hxe, -, -⟩ := hopen hstreaming
      rw [hrotation, Option.any_some, windowOk_iff] at hwindow
      obtain ⟨-, -, hcolumns, hrows⟩ := hwindow
      obtain ⟨hcol, hprow⟩ := physical_lt p r (x := k.px) (y := k.py) (by omega) (by omega)
      refine sinkInv_advance ⟨?_, hopen⟩ (by simpa using hrow)
      exact cellsWf_setCell 0 153600 k.gram _ c hgram (Nat.zero_le _) (cellNumber_lt hcol hprow)

/-! ### Single bytes -/

/-- A command byte ends the stream; begin pixel stream opens another one. -/
theorem sinkInv_commandByte {p : Params} {k : Sink} (b : Byte) (h : SinkInv p k) :
    SinkInv p (k.commandByte p b) := by
  unfold Sink.commandByte
  dsimp only
  split_ifs
  · exact sinkInv_closed h.1 rfl
  · exact sinkInv_closed h.1 rfl
  · exact sinkInv_begin h.1 rfl rfl
  · exact sinkInv_closed h.1 rfl
  · exact sinkInv_closed h.1 rfl

/-- A data byte of an addressing command leaves the stream and frame memory alone. -/
theorem rangeByte_frame (k : Sink) (b : Byte) :
    (k.rangeByte b).gram = k.gram ∧ (k.rangeByte b).streaming = k.streaming := by
  unfold Sink.rangeByte
  split <;> exact ⟨rfl, rfl⟩

/-- While a command collects its data bytes no stream is open; otherwise the byte is of the stream's pixels. -/
theorem sinkInv_dataByte {p : Params} {k : Sink} (b : Byte) (h : SinkInv p k) :
    SinkInv p (k.dataByte p b) := by
  have hclosed (hbusy : k.command ≠ .idle) : k.streaming = false := by
    cases hs : k.streaming with
    | false => rfl
    | true => exact absurd (h.2 hs).1 hbusy
  obtain ⟨hgram, hstreaming⟩ := rangeByte_frame k b
  unfold Sink.dataByte
  cases hc : k.command with
  | columns | rows =>
    exact sinkInv_closed (hgram ▸ h.1) (hstreaming.trans (hclosed (by rw [hc]; decide)))
  | access => exact sinkInv_closed h.1 (hclosed (by rw [hc]; decide))
  | idle =>
    simp only
    split
    · rename_i hs
      unfold Sink.streamByte
      split
      · exact h
      · exact sinkInv_store _ h hs
    · rename_i hs
      exact sinkInv_closed h.1 (Bool.eq_false_of_not_eq_true hs)

/-- One byte keeps the invariant. -/
theorem sinkInv_feed {p : Params} {k : Sink} (b : Tag × Byte) (h : SinkInv p k) : SinkInv p (k.feed p b) := by
  obtain ⟨tag, b⟩ := b
  unfold Sink.feed
  split
  · exact h
  · cases tag
    · exact sinkInv_commandByte b h
    · exact sinkInv_dataByte b h

/-- Any bytes keep the invariant. -/
theorem sinkInv_feedBytes {p : Params} {k : Sink} (bs : List (Tag × Byte)) (h : SinkInv p k) :
    SinkInv p (k.feedBytes p bs) := by
  induction bs generalizing k with
  | nil => exact h
  | cons b bs ih => exact ih (sinkInv_feed b h)

/-! ### What a step sends -/

/-- A step leaves the parameters as they are and sends the sink some bytes, or none. -/
structure SinkFrame (s t : State) : Prop where
  params : t.params = s.params
  sink : ∃ bs, t.sink = s.sink.feedBytes s.params bs

/-- Nothing sent. -/
theorem sinkFrame_refl {s t : State} (hp : t.params = s.params) (hk : t.sink = s.sink) : SinkFrame s t :=
  ⟨hp, [], hk⟩

/-- A write of asset memory sends nothing, whatever it does to the running command. -/
theorem sinkFrame_writeAsset (s : State) (a : Half) (b : Byte) : SinkFrame s (s.writeAsset a b) := by
  rcases writeAsset_cases s a b with heq | ⟨i, -, -, -, heq⟩
  · rw [heq]; exact sinkFrame_refl rfl rfl
  · obtain ⟨kept, rs, buf, htear, -⟩ := tear_eq { s with amem := Memory.write s.amem a b } i
    rw [heq, htear]
    exact sinkFrame_refl rfl rfl

/-- Of the events, the adapter's two send bytes. -/
theorem sinkFrame_handle (s : State) (e : Input) : SinkFrame s (s.handle e) := by
  cases e with
  | present | changeWord | readRegister | reset => exact sinkFrame_refl rfl rfl
  | assetWrite a b => exact sinkFrame_writeAsset s a b
  | adapterTransfers =>
    change SinkFrame s s.transferByte
    rcases transferByte_cases s with heq | ⟨u, us, b, -, -, heq⟩
    · rw [heq]; exact sinkFrame_refl rfl rfl
    · rw [heq]; exact ⟨rfl, [b], rfl⟩
  | adapterAccepts =>
    change SinkFrame s s.acceptTransaction
    rcases acceptTransaction_cases s with ⟨-, heq⟩ | ⟨u, us, -, heq⟩
    · rw [heq]; exact sinkFrame_refl rfl rfl
    · rw [heq]; exact ⟨rfl, _, rfl⟩

/-- What a step does to the sink. -/
theorem sinkFrame_step {s t : State} (h : step s = .next t) : SinkFrame s t := by
  rcases step_cases s t h with
    ⟨cw, i, u, -, -, -, hexec, rfl⟩ | ⟨cw, e, -, -, -, rfl⟩ | ⟨-, -, rfl⟩ | ⟨e, es, -, -, rfl⟩
  · have hu := (exec_commandFrame hexec).others
    rw [sampled_eq] at hu
    exact sinkFrame_refl (by rw [settleBusy_params, hu]; rfl) (by rw [settleBusy_sink, hu]; rfl)
  · rw [sampled_eq]; exact sinkFrame_refl rfl rfl
  · exact sinkFrame_refl rfl rfl
  · obtain ⟨hp, bs, hk⟩ := sinkFrame_handle { s with inputs := es } e
    exact ⟨hp, bs, hk⟩

/-- Settles O19: a step only sends the sink bytes, and each of them keeps its invariant. -/
theorem stepKeepsSinkInv : Obligations.StepKeepsSinkInv := by
  intro s t h hstep
  obtain ⟨hp, bs, hk⟩ := sinkFrame_step hstep
  rw [hp, hk]
  exact sinkInv_feedBytes bs h

end Sys2Proof.Machine
end

section
/-! The reference sink receives a drawing call: the window, then the pixels of one colour. -/

namespace Sys2Proof.Machine

/-! ### A drawing call as a rectangle of one colour -/

/-- The pixels of the panel that a drawing call paints, as a rectangle, and their colour. -/
def Request.area (width height : Nat) (r : Request) : Option (Rect × Colour) :=
  match r with
  | .pixel x y c => if onPanel width height x y then some (⟨x.toNat, y.toNat, 1, 1⟩, c) else none
  | .fill x y w h c => (clip width height x y w h).map fun q => (q, c)

/-- A truncated extent ends on the panel, and is empty only if the extent is. -/
theorem truncate_bounds {limit start extent : Nat} (hstart : start < limit) (hextent : extent ≠ 0) :
    0 < truncate limit start extent ∧ start + truncate limit start extent ≤ limit := by
  unfold truncate
  split <;> omega

/-- A clipped rectangle is not empty and lies on the panel. -/
theorem clip_bounds {width height w h : Nat} {x y : Int} {q : Rect}
    (hclip : clip width height x y w h = some q) :
    0 < q.w ∧ 0 < q.h ∧ q.x + q.w ≤ width ∧ q.y + q.h ≤ height := by
  unfold clip at hclip
  split_ifs at hclip with horigin hbeyond hempty
  cases hclip
  obtain ⟨hw, hx⟩ := truncate_bounds (limit := width) (start := x.toNat) (extent := w) (by omega) (by omega)
  obtain ⟨hh, hy⟩ := truncate_bounds (limit := height) (start := y.toNat) (extent := h) (by omega) (by omega)
  exact ⟨hw, hh, hx, hy⟩

/-- The area of a drawing call is not empty and lies on the panel. -/
theorem area_bounds {width height : Nat} {r : Request} {q : Rect} {c : Colour}
    (h : r.area width height = some (q, c)) :
    0 < q.w ∧ 0 < q.h ∧ q.x + q.w ≤ width ∧ q.y + q.h ≤ height := by
  cases r with
  | pixel x y d =>
    simp only [Request.area, Option.ite_none_right_eq_some] at h
    obtain ⟨hon, heq⟩ := h
    cases heq
    simp only [onPanel, Bool.and_eq_true, decide_eq_true_eq] at hon
    refine ⟨Nat.one_pos, Nat.one_pos, ?_, ?_⟩ <;> simp only <;> omega
  | fill x y w v d =>
    simp only [Request.area, Option.map_eq_some_iff] at h
    obtain ⟨q', hclip, heq⟩ := h
    cases heq
    exact clip_bounds hclip

/-- A drawing call paints the pixels of its area. -/
theorem paints_iff (width height : Nat) (r : Request) (px py : Nat) (d : Colour) :
    r.paints width height px py d ↔ ∃ q c, r.area width height = some (q, c) ∧
      q.x ≤ px ∧ px < q.x + q.w ∧ q.y ≤ py ∧ py < q.y + q.h ∧ d = c := by
  cases r with
  | pixel x y c =>
    simp only [Request.paints, Request.area, Option.ite_none_right_eq_some, Option.some.injEq, Prod.mk.injEq]
    constructor
    · rintro ⟨hon, rfl, rfl, rfl⟩
      exact ⟨_, _, ⟨hon, rfl, rfl⟩, by simp⟩
    · rintro ⟨q, d', ⟨hon, rfl, rfl⟩, hx, hx', hy, hy', rfl⟩
      simp only [onPanel, Bool.and_eq_true, decide_eq_true_eq] at hon
      simp only at hx hx' hy hy'
      exact ⟨by simp [onPanel, hon], by omega, by omega, rfl⟩
  | fill x y w v c =>
    simp only [Request.paints, Request.area, Option.map_eq_some_iff, Prod.mk.injEq]
    constructor
    · rintro ⟨q, hclip, hin⟩
      exact ⟨q, c, ⟨q, hclip, rfl, rfl⟩, hin⟩
    · rintro ⟨q, _, ⟨_, hclip, rfl, rfl⟩, hin⟩
      exact ⟨_, hclip, hin⟩

/-- A drawing call without an area sends nothing. -/
theorem txns_of_area_none {s : State} {r : Request} (h : r.area s.panelWidth s.panelHeight = none) :
    r.txns s = [] := by
  cases r with
  | pixel x y c => simpa [Request.area, Request.txns] using h
  | fill x y w v c =>
    simp only [Request.area, Option.map_eq_none_iff] at h
    simp [Request.txns, h]

/-- A drawing call sends the window of its area, then its colour once for each pixel. -/
theorem wire_txns_of_area {s : State} {r : Request} {q : Rect} {c : Colour}
    (h : r.area s.panelWidth s.panelHeight = some (q, c)) :
    wire (r.txns s) =
      wire (window s.params q.x q.y (q.x + q.w - 1) (q.y + q.h - 1)) ++ pixelBytes (q.w * q.h) c := by
  cases r with
  | pixel x y d =>
    simp only [Request.area, Option.ite_none_right_eq_some] at h
    obtain ⟨hon, heq⟩ := h
    cases heq
    simp only [Request.txns, hon, if_true, wire_append]
    rfl
  | fill x y w v d =>
    simp only [Request.area, Option.map_eq_some_iff] at h
    obtain ⟨q', hclip, heq⟩ := h
    cases heq
    simp only [Request.txns, hclip, wire_append, Params.chunkBytes, wire_chunks_pattern]

/-! ### The window -/

/-- The four command bytes tell the sink its four commands. -/
theorem distinct_commands {p : Params} (h : p.distinct) :
    p.cmdPaset ≠ p.cmdCaset ∧ p.cmdRamwr ≠ p.cmdCaset ∧ p.cmdRamwr ≠ p.cmdPaset ∧
      p.cmdMadctl ≠ p.cmdCaset ∧ p.cmdMadctl ≠ p.cmdPaset ∧ p.cmdMadctl ≠ p.cmdRamwr := by
  have hnodup := h.1
  simp only [List.nodup_cons, List.mem_cons, List.not_mem_nil, not_or, or_false] at hnodup
  obtain ⟨⟨h01, h02, h03⟩, ⟨h12, h13⟩, h23, -⟩ := hnodup
  exact ⟨Ne.symm h01, Ne.symm h02, Ne.symm h12, Ne.symm h03, Ne.symm h13, Ne.symm h23⟩

/-- A 16-bit value and its two bytes. -/
theorem colour_bytes_append (v : BitVec 16) : v.extractLsb' 8 8 ++ v.extractLsb' 0 8 = v := by
  apply BitVec.eq_of_getLsbD_eq
  intro i hi
  simp only [BitVec.getLsbD_append, BitVec.getLsbD_extractLsb']
  grind

/-- The two high bytes of a window's two bounds are the low bound. -/
theorem bounds_low (lo hi : Nat) :
    (bounds lo hi).extractLsb' 24 8 ++ (bounds lo hi).extractLsb' 16 8 = low16 lo := by
  apply BitVec.eq_of_getLsbD_eq
  intro i hi
  simp only [bounds, BitVec.getLsbD_append, BitVec.getLsbD_extractLsb']
  grind

/-- The two low bytes of a window's two bounds are the high bound. -/
theorem bounds_high (lo hi : Nat) :
    (bounds lo hi).extractLsb' 8 8 ++ (bounds lo hi).extractLsb' 0 8 = low16 hi := by
  apply BitVec.eq_of_getLsbD_eq
  intro i hi
  simp only [bounds, BitVec.getLsbD_append, BitVec.getLsbD_extractLsb']
  grind

/-- A sink with these ranges, the stream closed and no command byte or data byte kept. -/
def Sink.addressed (k : Sink) (xs xe ys ye : Half) : Sink :=
  { k with
    xs := xs
    xe := xe
    ys := ys
    ye := ye
    streaming := false
    latch := none
    command := .idle
    args := [] }

/-- A sink whose pixel stream is open on a window, at this pixel and with this frame memory. -/
def Sink.filling (k : Sink) (x0 y0 x1 y1 px py : Nat) (gram : List (Nat × Colour)) : Sink :=
  { k.addressed (low16 x0) (low16 x1) (low16 y0) (low16 y1) with
    px := px
    py := py
    streaming := true
    gram := gram }

/-- The column-address-set command and its two bounds. -/
theorem feedAll_columns {p : Params} {k : Sink} (lo hi : Nat) (hk : k.outside = false) :
    k.feedAll p [.cmd p.cmdCaset, .d32 (bounds lo hi)] = k.addressed (low16 lo) (low16 hi) k.ys k.ye := by
  simp [Sink.feedAll, wire, flat, Sink.feed, hk, Sink.commandByte, Sink.dataByte, Sink.rangeByte, bounds_low,
    bounds_high, Sink.addressed]

/-- The row-address-set command and its two bounds. -/
theorem feedAll_rows {p : Params} {k : Sink} (hp : p.distinct) (lo hi : Nat) (hk : k.outside = false) :
    k.feedAll p [.cmd p.cmdPaset, .d32 (bounds lo hi)] = k.addressed k.xs k.xe (low16 lo) (low16 hi) := by
  obtain ⟨hpaset, -⟩ := distinct_commands hp
  simp [Sink.feedAll, wire, flat, Sink.feed, hk, Sink.commandByte, hpaset, Sink.dataByte, Sink.rangeByte,
    bounds_low, bounds_high, Sink.addressed]

/-- Begin pixel stream on a window of the panel of the sink's rotation. -/
theorem begin_eq {p : Params} {k : Sink} {r : BitVec 2} (hr : k.rotation p = some r)
    (hwindow : k.windowOk r = true) :
    k.begin p = { k with px := u16 k.xs, py := u16 k.ys, streaming := true } := by
  rw [Sink.begin, hr]
  exact if_pos hwindow

/-- The begin-pixel-stream command is the third of the four. -/
theorem feedAll_ramwr {p : Params} {k : Sink} (hp : p.distinct) (hk : k.outside = false) :
    k.feedAll p [.cmd p.cmdRamwr] = (k.addressed k.xs k.xe k.ys k.ye).begin p := by
  obtain ⟨-, hcaset, hpaset, -⟩ := distinct_commands hp
  simp [Sink.feedAll, wire, flat, Sink.feed, hk, Sink.commandByte, hcaset, hpaset, Sink.addressed]

/-- A coordinate of the panel is its own low 16 bits. -/
theorem u16_low16 {v : Nat} {w : Half} (h : v < u16 w) : u16 (low16 v) = v := by
  have hw : u16 w < 65536 := w.isLt
  simp only [u16, low16, BitVec.toNat_ofNat]
  omega

/-- A window on the panel opens the pixel stream at its first pixel, whatever the sink was at before
(spec/20_memory.md R71, R72). -/
theorem feedAll_window {p : Params} {k : Sink} {r : BitVec 2} {x0 y0 x1 y1 : Nat} (hp : p.distinct)
    (hk : k.outside = false) (hr : k.rotation p = some r) (hx : x0 ≤ x1) (hx1 : x1 < u16 (panelOf r).1)
    (hy : y0 ≤ y1) (hy1 : y1 < u16 (panelOf r).2) :
    k.feedAll p (window p x0 y0 x1 y1) = k.filling x0 y0 x1 y1 x0 y0 k.gram := by
  have hsplit : window p x0 y0 x1 y1 = [.cmd p.cmdCaset, .d32 (bounds x0 x1)] ++
    ([.cmd p.cmdPaset, .d32 (bounds y0 y1)] ++ [.cmd p.cmdRamwr]) := rfl
  have ex0 := u16_low16 (hx.trans_lt hx1)
  have ey0 := u16_low16 (hy.trans_lt hy1)
  have hwindow : (k.addressed (low16 x0) (low16 x1) (low16 y0) (low16 y1)).windowOk r = true := by
    rw [windowOk_iff]
    simp only [Sink.addressed, ex0, ey0, u16_low16 hx1, u16_low16 hy1]
    exact ⟨hx, hy, hx1, hy1⟩
  have hbegin := begin_eq (p := p) (k := k.addressed (low16 x0) (low16 x1) (low16 y0) (low16 y1)) hr hwindow
  have hrows := feedAll_rows (k := k.addressed (low16 x0) (low16 x1) k.ys k.ye) hp y0 y1 hk
  have hramwr := feedAll_ramwr (k := k.addressed (low16 x0) (low16 x1) (low16 y0) (low16 y1)) hp hk
  calc k.feedAll p (window p x0 y0 x1 y1)
      = ((k.feedAll p [.cmd p.cmdCaset, .d32 (bounds x0 x1)]).feedAll p
          [.cmd p.cmdPaset, .d32 (bounds y0 y1)]).feedAll p [.cmd p.cmdRamwr] := by
        rw [hsplit, feedAll_append, feedAll_append]
    _ = (k.addressed (low16 x0) (low16 x1) (low16 y0) (low16 y1)).begin p := by
        rw [feedAll_columns _ _ hk, hrows]; exact hramwr
    _ = k.filling x0 y0 x1 y1 x0 y0 k.gram := by
        rw [hbegin]; simp only [Sink.filling, Sink.addressed, ex0, ey0]

/-! ### The pixels -/

/-- A stored pixel, the window not being full. -/
theorem store_eq {p : Params} {k : Sink} {r : BitVec 2} (c : Colour) (hr : k.rotation p = some r)
    (hrow : k.py ≤ u16 k.ye) :
    k.store p c = { k with gram := setCell k.gram (cellNumber (physical (p.orient r) k.px k.py)) c }.advance := by
  rw [Sink.store, hr]
  exact if_neg (Nat.not_lt.mpr hrow)

/-- One pixel of an open stream whose window is not full. -/
theorem feedBytes_pixel {p : Params} {k : Sink} {r : BitVec 2} (c : Colour) (hk : k.outside = false)
    (hr : k.rotation p = some r) (hstreaming : k.streaming = true) (hlatch : k.latch = none)
    (hidle : k.command = .idle) (hrow : k.py ≤ u16 k.ye) :
    k.feedBytes p (pixelBytes 1 c) =
      { k with gram := setCell k.gram (cellNumber (physical (p.orient r) k.px k.py)) c }.advance := by
  have hbytes : pixelBytes 1 c = [(.d, c.extractLsb' 8 8), (.d, c.extractLsb' 0 8)] := rfl
  have hstore : k.feedBytes p (pixelBytes 1 c) = Sink.store p { k with latch := none } c := by
    simp [hbytes, Sink.feed, hk, Sink.dataByte, hidle, hstreaming, Sink.streamByte, colour_bytes_append, hlatch]
  have hsame : { k with latch := none } = k := by rw [← hlatch]
  rw [hstore, hsame, store_eq c hr hrow]

/-- Frame memory after the first `n` pixels of a window of width `w`, all of colour `c` (R72). -/
def paintCells (o : Bool × Bool × Bool) (x0 y0 w : Nat) (c : Colour) (gram : List (Nat × Colour)) (n : Nat) :
    List (Nat × Colour) :=
  match n with
  | 0 => gram
  | n + 1 => setCell (paintCells o x0 y0 w c gram n) (cellNumber (physical o (x0 + n % w) (y0 + n / w))) c

/-- The column and the row of the next pixel of a window. -/
theorem next_pixel (n : Nat) {w : Nat} (hw : 0 < w) :
    (n % w + 1 < w → (n + 1) % w = n % w + 1 ∧ (n + 1) / w = n / w) ∧
      (¬n % w + 1 < w → (n + 1) % w = 0 ∧ (n + 1) / w = n / w + 1) := by
  have hn := Nat.mod_add_div n w
  have hlt := Nat.mod_lt n hw
  refine ⟨fun h => ?_, fun h => ?_⟩
  · exact ((Nat.div_mod_unique hw).mpr ⟨by omega, h⟩).symm
  · refine ((Nat.div_mod_unique hw).mpr ⟨?_, hw⟩).symm
    rw [Nat.mul_succ]; omega

/-- Pixels of an open stream, as many as the window has or fewer, go to its cells row by row. -/
theorem feedBytes_pixelBytes {p : Params} {k : Sink} {r : BitVec 2} {x0 y0 w h n : Nat} (c : Colour)
    (hk : k.outside = false) (hr : k.rotation p = some r) (hw : 0 < w) (hx : x0 + w ≤ u16 (panelOf r).1)
    (hy : y0 + h ≤ u16 (panelOf r).2) (hn : n ≤ w * h) :
    (k.filling x0 y0 (x0 + w - 1) (y0 + h - 1) x0 y0 k.gram).feedBytes p (pixelBytes n c) =
      k.filling x0 y0 (x0 + w - 1) (y0 + h - 1) (x0 + n % w) (y0 + n / w)
        (paintCells (p.orient r) x0 y0 w c k.gram n) := by
  induction n with
  | zero => simp [pixelBytes, paintCells]
  | succ n ih =>
    have hrow : n / w < h := Nat.div_lt_of_lt_mul hn
    have hpos : 0 < h := Nat.zero_lt_of_lt hrow
    have hcol : n % w < w := Nat.mod_lt n hw
    have exs : u16 (low16 x0) = x0 := u16_low16 (w := (panelOf r).1) (by omega)
    have exe : u16 (low16 (x0 + w - 1)) = x0 + w - 1 := u16_low16 (w := (panelOf r).1) (by omega)
    have eye : u16 (low16 (y0 + h - 1)) = y0 + h - 1 := u16_low16 (w := (panelOf r).2) (by omega)
    have hpixel := feedBytes_pixel (p := p) (r := r)
      (k := k.filling x0 y0 (x0 + w - 1) (y0 + h - 1) (x0 + n % w) (y0 + n / w)
        (paintCells (p.orient r) x0 y0 w c k.gram n))
      c hk hr rfl rfl rfl (by simp only [Sink.filling, Sink.addressed, eye]; omega)
    rw [pixelBytes_add, feedBytes_append, ih (Nat.le_of_succ_le hn), hpixel]
    simp only [Sink.advance, Sink.filling, Sink.addressed, exe, exs]
    split
    · obtain ⟨hmod, hdiv⟩ := (next_pixel n hw).1 (by omega)
      rw [hmod, hdiv]; rfl
    · obtain ⟨hmod, hdiv⟩ := (next_pixel n hw).2 (by omega)
      rw [hmod, hdiv]; rfl

/-- A cell that none of the pixels goes to. -/
theorem cellAt_paintCells_other (o : Bool × Bool × Bool) (x0 y0 w : Nat) (c : Colour)
    (gram : List (Nat × Colour)) (n a : Nat)
    (h : ∀ m < n, a ≠ cellNumber (physical o (x0 + m % w) (y0 + m / w))) :
    cellAt (paintCells o x0 y0 w c gram n) a = cellAt gram a := by
  induction n with
  | zero => rfl
  | succ n ih =>
    rw [paintCells, cellAt_setCell_other _ _ _ _ (h n (Nat.lt_succ_self n))]
    exact ih fun m hm => h m (Nat.lt_succ_of_lt hm)

/-- The cell of one of the pixels. -/
theorem cellAt_paintCells (o : Bool × Bool × Bool) (x0 y0 w : Nat) (c : Colour) (gram : List (Nat × Colour))
    {n m : Nat} (h : m < n) :
    cellAt (paintCells o x0 y0 w c gram n) (cellNumber (physical o (x0 + m % w) (y0 + m / w))) = some c := by
  induction n with
  | zero => exact absurd h (Nat.not_lt_zero m)
  | succ n ih =>
    by_cases hcell : cellNumber (physical o (x0 + m % w) (y0 + m / w)) =
        cellNumber (physical o (x0 + n % w) (y0 + n / w))
    · rw [paintCells, hcell, cellAt_setCell_same]
    · rw [paintCells, cellAt_setCell_other _ _ _ _ hcell]
      refine ih (Nat.lt_of_le_of_ne (Nat.le_of_lt_succ h) ?_)
      rintro rfl
      exact hcell rfl

/-! ### A drawing call -/

/-- A conforming sink after a drawing call: the window of the call's area is full of its colour. -/
theorem feedAll_txns {s : State} {k : Sink} {r : Request} {q : Rect} {c : Colour} {rot : BitVec 2}
    (hp : s.params.distinct) (hpanel : (s.regs.width, s.regs.height) = panelOf rot) (hk : k.outside = false)
    (hr : k.rotation s.params = some rot) (harea : r.area s.panelWidth s.panelHeight = some (q, c)) :
    k.feedAll s.params (r.txns s) =
      k.filling q.x q.y (q.x + q.w - 1) (q.y + q.h - 1) q.x (q.y + q.h)
        (paintCells (s.params.orient rot) q.x q.y q.w c k.gram (q.w * q.h)) := by
  obtain ⟨hw, hh, hx, hy⟩ := area_bounds harea
  have hwidth : s.panelWidth = u16 (panelOf rot).1 := by rw [← hpanel]; rfl
  have hheight : s.panelHeight = u16 (panelOf rot).2 := by rw [← hpanel]; rfl
  rw [hwidth] at hx
  rw [hheight] at hy
  rw [Sink.feedAll, wire_txns_of_area harea, feedBytes_append]
  have hopen := feedAll_window (x0 := q.x) (y0 := q.y) (x1 := q.x + q.w - 1) (y1 := q.y + q.h - 1) hp hk hr
    (by omega) (by omega) (by omega) (by omega)
  rw [Sink.feedAll] at hopen
  rw [hopen, feedBytes_pixelBytes c hk hr hw hx hy (Nat.le_refl _), Nat.mul_mod_right,
    Nat.mul_div_cancel_left _ hw, Nat.add_zero]

/-- A drawing call leaves a conforming sink within its contract and at its rotation. -/
theorem feedAll_txns_conforming {s : State} {k : Sink} (r : Request) {rot : BitVec 2} (hp : s.params.distinct)
    (hpanel : (s.regs.width, s.regs.height) = panelOf rot) (hk : k.outside = false)
    (hr : k.rotation s.params = some rot) :
    (k.feedAll s.params (r.txns s)).outside = false ∧
      (k.feedAll s.params (r.txns s)).rotation s.params = some rot := by
  cases harea : r.area s.panelWidth s.panelHeight with
  | none => rw [txns_of_area_none harea]; exact ⟨hk, hr⟩
  | some qc => rw [feedAll_txns hp hpanel hk hr harea]; exact ⟨hk, hr⟩

end Sys2Proof.Machine
end

section
/-! Settles O60: after a drawing call the cells of its area hold its colour, every other cell what it held. -/

namespace Sys2Proof.Machine

/-- Two cells of the glass have two numbers. -/
theorem cellNumber_injective {a b : Nat × Nat} (ha : a.1 < 320) (hb : b.1 < 320)
    (h : cellNumber a = cellNumber b) : a = b := by
  unfold cellNumber at h
  exact Prod.ext_iff.mpr ⟨by omega, by omega⟩

/-- A pixel of a rectangle is one of its pixels in row order. -/
theorem exists_pixel_number {q : Rect} {x y : Nat} (hx : q.x ≤ x) (hx' : x < q.x + q.w) (hy : q.y ≤ y)
    (hy' : y < q.y + q.h) : ∃ m < q.w * q.h, q.x + m % q.w = x ∧ q.y + m / q.w = y := by
  have hw : 0 < q.w := by omega
  obtain ⟨hdiv, hmod⟩ := (Nat.div_mod_unique (a := (x - q.x) + q.w * (y - q.y)) hw).mpr ⟨rfl, by omega⟩
  refine ⟨(x - q.x) + q.w * (y - q.y), ?_, by omega, by omega⟩
  calc (x - q.x) + q.w * (y - q.y) < q.w + q.w * (y - q.y) := by omega
    _ = q.w * (y - q.y + 1) := by rw [Nat.mul_succ, Nat.add_comm]
    _ ≤ q.w * q.h := Nat.mul_le_mul_left _ (by omega)

/-- A pixel of the panel beside the painted rectangle keeps what its cell holds. -/
theorem cellAt_paintCells_beside (p : Params) {rot : BitVec 2} {q : Rect} (c : Colour)
    (gram : List (Nat × Colour)) {x y : Nat} (hx : q.x + q.w ≤ u16 (panelOf rot).1)
    (hy : q.y + q.h ≤ u16 (panelOf rot).2) (hpx : x < u16 (panelOf rot).1) (hpy : y < u16 (panelOf rot).2)
    (houtside : ¬(q.x ≤ x ∧ x < q.x + q.w ∧ q.y ≤ y ∧ y < q.y + q.h)) :
    cellAt (paintCells (p.orient rot) q.x q.y q.w c gram (q.w * q.h))
        (cellNumber (physical (p.orient rot) x y)) =
      cellAt gram (cellNumber (physical (p.orient rot) x y)) := by
  refine cellAt_paintCells_other _ _ _ _ _ _ _ _ fun m hm heq => houtside ?_
  have hw : 0 < q.w := Nat.pos_of_mul_pos_right (Nat.zero_lt_of_lt hm)
  have hcol : m % q.w < q.w := Nat.mod_lt m hw
  have hrow : m / q.w < q.h := Nat.div_lt_of_lt_mul hm
  have hpos : 0 < q.h := Nat.zero_lt_of_lt hrow
  have hmx : q.x + m % q.w < u16 (panelOf rot).1 := by omega
  have hmy : q.y + m / q.w < u16 (panelOf rot).2 := by omega
  have hcells := cellNumber_injective (physical_lt p rot hpx hpy).1 (physical_lt p rot hmx hmy).1 heq
  obtain ⟨rfl, rfl⟩ := physical_injective p rot hpx hpy hmx hmy hcells
  exact ⟨Nat.le_add_right _ _, Nat.add_lt_add_left hcol _, Nat.le_add_right _ _, Nat.add_lt_add_left hrow _⟩

/-- Settles O60: without an area nothing is sent and nothing painted; with one, its pixels are painted and no
other pixel of the panel has a cell among theirs. -/
theorem drawingCallPaintsExactlyItsPixels : Obligations.DrawingCallPaintsExactlyItsPixels := by
  intro s r hp hpanel hk hr
  obtain ⟨houtside, hrotation⟩ := feedAll_txns_conforming r hp hpanel hk hr
  have hwidth : s.panelWidth = u16 (panelOf s.regs.rotation).1 := by rw [← hpanel]; rfl
  have hheight : s.panelHeight = u16 (panelOf s.regs.rotation).2 := by rw [← hpanel]; rfl
  refine ⟨houtside, ?_, hrotation, fun px py hpx hpy => ?_⟩
  · intro hsent
    cases harea : r.area s.panelWidth s.panelHeight with
    | none => exact absurd (txns_of_area_none harea) hsent
    | some qc => rw [feedAll_txns hp hpanel hk hr harea]; rfl
  · simp only [paints_iff]
    cases harea : r.area s.panelWidth s.panelHeight with
    | none => simp [txns_of_area_none harea]
    | some qc =>
      obtain ⟨q, c⟩ := qc
      obtain ⟨-, -, hx, hy⟩ := area_bounds harea
      rw [feedAll_txns hp hpanel hk hr harea]
      refine ⟨?_, fun hnone => ?_⟩
      · rintro d ⟨q', c', heq, hx1, hx2, hy1, hy2, rfl⟩
        cases heq
        obtain ⟨m, hm, rfl, rfl⟩ := exists_pixel_number hx1 hx2 hy1 hy2
        simp only [Sink.cell, Sink.filling]
        rw [cellAt_paintCells _ _ _ _ _ _ hm]
        rfl
      · have houtside : ¬(q.x ≤ px ∧ px < q.x + q.w ∧ q.y ≤ py ∧ py < q.y + q.h) :=
          fun ⟨hx1, hx2, hy1, hy2⟩ => hnone c ⟨q, c, rfl, hx1, hx2, hy1, hy2, rfl⟩
        simp only [Sink.cell, Sink.filling]
        rw [cellAt_paintCells_beside s.params c s.sink.gram (hwidth ▸ hx) (hheight ▸ hy) (hwidth ▸ hpx)
          (hheight ▸ hpy) houtside]

end Sys2Proof.Machine
end

section
/-! Settles O20: the bytes of a command keep a conforming sink within its contract and, but for SET_ROTATION's,
at its rotation all the way; a step only moves the point up to which they have been sent. -/

namespace Sys2Proof.Machine

/-! ### The sink's rotation -/

/-- The four bytes of `MADCTL_DATA` tell the rotations apart. -/
theorem madctl_injective {p : Params} (hp : p.distinct) {q r : BitVec 2} (h : p.madctl q = p.madctl r) :
    q = r := by
  have hget (r : BitVec 2) : p.madctl r = p.madctlData.toList[r.toNat]'(by simp [r.isLt]) := rfl
  rw [hget, hget, hp.2.getElem_inj_iff] at h
  exact BitVec.eq_of_toNat_eq h

/-- A sink whose memory-access-control byte is that of a rotation is at that rotation. -/
theorem rotation_of_mac {p : Params} {k : Sink} {r : BitVec 2} (hp : p.distinct) (hmac : k.mac = p.madctl r) :
    k.rotation p = some r := by
  have hbyte (q : BitVec 2) : (p.madctl q == k.mac) = (q == r) := by
    rw [hmac, Bool.eq_iff_iff, beq_iff_eq, beq_iff_eq]
    exact ⟨madctl_injective hp, congrArg _⟩
  have hfind : ∀ r : BitVec 2, [0#2, 1#2, 2#2, 3#2].find? (fun q => q == r) = some r := by decide
  simp only [Sink.rotation, hbyte]
  exact hfind r

/-- The rotation is a function of the memory-access-control byte. -/
theorem rotation_congr {p : Params} {k q : Sink} (h : k.mac = q.mac) : k.rotation p = q.rotation p := by
  simp only [Sink.rotation, h]

/-- The pointer's move leaves the rotation alone. -/
@[simp] theorem advance_mac (k : Sink) : k.advance.mac = k.mac := by
  unfold Sink.advance; split <;> rfl

/-- The pointer's move is no command. -/
@[simp] theorem advance_command (k : Sink) : k.advance.command = k.command := by
  unfold Sink.advance; split <;> rfl

/-- A stored pixel leaves the rotation and the command alone. -/
theorem store_frame (p : Params) (k : Sink) (c : Colour) :
    (k.store p c).mac = k.mac ∧ (k.store p c).command = k.command := by
  unfold Sink.store
  split
  · exact ⟨rfl, rfl⟩
  · split
    · exact ⟨rfl, rfl⟩
    · simp

/-- A pixel's byte leaves the rotation and the command alone. -/
theorem streamByte_frame (p : Params) (k : Sink) (b : Byte) :
    (k.streamByte p b).mac = k.mac ∧ (k.streamByte p b).command = k.command := by
  unfold Sink.streamByte
  split
  · exact ⟨rfl, rfl⟩
  · exact store_frame p _ _

/-- The opening of a stream leaves the rotation and the command alone. -/
theorem begin_frame (p : Params) (k : Sink) : (k.begin p).mac = k.mac ∧ (k.begin p).command = k.command := by
  unfold Sink.begin
  split
  · exact ⟨rfl, rfl⟩
  · split <;> exact ⟨rfl, rfl⟩

/-- A data byte of an addressing command leaves the rotation alone, and no other command comes of it. -/
theorem rangeByte_access (k : Sink) (b : Byte) :
    (k.rangeByte b).mac = k.mac ∧ (k.command ≠ .access → (k.rangeByte b).command ≠ .access) := by
  unfold Sink.rangeByte
  split
  · exact ⟨rfl, fun _ => nofun⟩
  · exact ⟨rfl, fun _ => nofun⟩
  · exact ⟨rfl, id⟩

/-- A command byte leaves the rotation alone; only the memory-access-control byte begins that command. -/
theorem commandByte_access (p : Params) (k : Sink) (b : Byte) :
    (k.commandByte p b).mac = k.mac ∧ (b ≠ p.cmdMadctl → (k.commandByte p b).command ≠ .access) := by
  unfold Sink.commandByte
  dsimp only
  split_ifs with hcaset hpaset hramwr hmadctl
  · exact ⟨rfl, fun _ => nofun⟩
  · exact ⟨rfl, fun _ => nofun⟩
  · obtain ⟨hmac, hcommand⟩ := begin_frame p
      { k with streaming := false, latch := none, command := .idle, args := [] }
    exact ⟨hmac, fun _ => by rw [hcommand]; nofun⟩
  · exact ⟨rfl, fun h => absurd hmadctl h⟩
  · exact ⟨rfl, fun _ => nofun⟩

/-- A data byte changes the rotation only as the memory-access-control command's. -/
theorem dataByte_access (p : Params) (k : Sink) (b : Byte) (h : k.command ≠ .access) :
    (k.dataByte p b).mac = k.mac ∧ (k.dataByte p b).command ≠ .access := by
  unfold Sink.dataByte
  cases hc : k.command with
  | columns | rows =>
    obtain ⟨hmac, hcommand⟩ := rangeByte_access k b
    exact ⟨hmac, hcommand h⟩
  | access => exact absurd hc h
  | idle =>
    dsimp only
    split
    · obtain ⟨hmac, hcommand⟩ := streamByte_frame p k b
      exact ⟨hmac, by rw [hcommand]; exact h⟩
    · exact ⟨rfl, nofun⟩

/-- A byte other than the memory-access-control command, received while that command collects nothing, or a
command byte: the rotation stays, and the command does not come about. -/
theorem feed_access {p : Params} {k : Sink} {b : Tag × Byte} (hb : b ≠ (.c, p.cmdMadctl))
    (h : k.command ≠ .access ∨ b.1 = .c) (hk : k.outside = false) :
    (k.feed p b).mac = k.mac ∧ (k.feed p b).command ≠ .access := by
  obtain ⟨tag, b⟩ := b
  simp only [Sink.feed, hk, Bool.false_eq_true, if_false]
  cases tag with
  | c =>
    obtain ⟨hmac, hcommand⟩ := commandByte_access p k b
    exact ⟨hmac, hcommand fun heq => hb (by rw [heq])⟩
  | d => exact dataByte_access p k b (by simpa using h)

/-- A sink keeps its rotation while it receives anything but the memory-access-control command. -/
theorem feedBytes_mac {p : Params} (bs : List (Tag × Byte)) {k : Sink} (hbs : (.c, p.cmdMadctl) ∉ bs)
    (h : k.command ≠ .access ∨ ∀ b ∈ bs.head?, b.1 = .c) : (k.feedBytes p bs).mac = k.mac := by
  induction bs generalizing k with
  | nil => rfl
  | cons b bs ih =>
    rw [List.mem_cons, not_or] at hbs
    cases hk : k.outside with
    | true => rw [feedBytes_outside p k _ hk]
    | false =>
      obtain ⟨hmac, hcommand⟩ := feed_access (Ne.symm hbs.1) (by simpa using h) hk
      rw [feedBytes_cons, ih hbs.2 (.inl hcommand), hmac]

/-! ### The bytes of drawing calls -/

/-- The memory-access-control command is not in a drawing call. -/
theorem madctl_notMem_txns {s : State} (hp : s.params.distinct) (r : Request) :
    (.c, s.params.cmdMadctl) ∉ wire (r.txns s) := by
  obtain ⟨-, -, -, hcaset, hpaset, hramwr⟩ := distinct_commands hp
  cases harea : r.area s.panelWidth s.panelHeight with
  | none => simp [txns_of_area_none harea, wire]
  | some qc =>
    rw [wire_txns_of_area harea]
    simp [wire, window, flat, pixelBytes, hcaset, hpaset, hramwr]

/-- What a list of drawing calls sends begins with a command byte, if there is any. -/
theorem head_wire_calls (s : State) (rs : List Request) :
    ∀ b ∈ (wire (rs.flatMap (Request.txns s))).head?, b.1 = .c := by
  rcases flatMap_txns_head s rs with h | ⟨us, h⟩ <;> simp [h, wire, flat]

/-- A sink that is within its contract and at a rotation, whatever it has received of these bytes. -/
structure Follows (p : Params) (k : Sink) (bs : List (Tag × Byte)) (rot : BitVec 2) : Prop where
  inside : (k.feedBytes p bs).outside = false
  rotation : ∀ n, (k.feedBytes p (bs.take n)).rotation p = some rot

/-- A conforming sink follows a list of drawing calls, made under the panel of its rotation. -/
theorem follows_calls {s : State} {k : Sink} {rot : BitVec 2} (rs : List Request) (hp : s.params.distinct)
    (hpanel : (s.regs.width, s.regs.height) = panelOf rot) (hk : k.outside = false)
    (hr : k.rotation s.params = some rot) :
    Follows s.params k (wire (rs.flatMap (Request.txns s))) rot := by
  constructor
  · have hcalls : (k.feedAll s.params (rs.flatMap (Request.txns s))).outside = false := by
      induction rs generalizing k with
      | nil => exact hk
      | cons r rs ih =>
        obtain ⟨hk', hr'⟩ := feedAll_txns_conforming r hp hpanel hk hr
        rw [List.flatMap_cons, feedAll_append]
        exact ih hk' hr'
    exact hcalls
  · intro n
    have hmadctl : (.c, s.params.cmdMadctl) ∉ wire (rs.flatMap (Request.txns s)) := by
      simp only [wire, List.flatMap_assoc, List.mem_flatMap, not_exists, not_and]
      exact fun r _ => by simpa [wire] using madctl_notMem_txns hp r
    have hhead : ∀ b ∈ ((wire (rs.flatMap (Request.txns s))).take n).head?, b.1 = .c := by
      rw [List.head?_take]
      split
      · exact nofun
      · exact head_wire_calls s rs
    have hmac := feedBytes_mac (k := k) _ (fun hmem => hmadctl (List.mem_of_mem_take hmem)) (.inr hhead)
    rw [rotation_congr hmac, hr]

/-! ### Following bytes in parts -/

/-- A sink that is within its contract when it has received some bytes was so before. -/
theorem outside_of_feedBytes {p : Params} {k : Sink} {bs : List (Tag × Byte)}
    (h : (k.feedBytes p bs).outside = false) : k.outside = false := by
  cases hk : k.outside with
  | false => rfl
  | true => rw [feedBytes_outside p k bs hk, hk] at h; exact h

/-- A sink that has received the bytes that it follows is at the rotation. -/
theorem follows_end {p : Params} {k : Sink} {bs : List (Tag × Byte)} {rot : BitVec 2}
    (h : Follows p k bs rot) : (k.feedBytes p bs).rotation p = some rot := by
  simpa using h.rotation bs.length

/-- A sink follows some bytes and then some more. -/
theorem follows_append {p : Params} {k : Sink} {bs cs : List (Tag × Byte)} {rot : BitVec 2}
    (hb : Follows p k bs rot) (hc : Follows p (k.feedBytes p bs) cs rot) : Follows p k (bs ++ cs) rot := by
  refine ⟨by rw [feedBytes_append]; exact hc.inside, fun n => ?_⟩
  rw [List.take_append, feedBytes_append]
  rcases Nat.le_total n bs.length with hn | hn
  · simpa [Nat.sub_eq_zero_of_le hn] using hb.rotation n
  · rw [List.take_of_length_le hn]
    exact hc.rotation (n - bs.length)

/-- A sink follows the first part of the bytes that it follows. -/
theorem follows_left {p : Params} {k : Sink} {bs cs : List (Tag × Byte)} {rot : BitVec 2}
    (h : Follows p k (bs ++ cs) rot) : Follows p k bs rot := by
  refine ⟨outside_of_feedBytes (bs := cs) (by rw [← feedBytes_append]; exact h.inside), fun n => ?_⟩
  have htake : bs.take n = (bs ++ cs).take (min n bs.length) := by
    rw [List.take_append_of_le_length (Nat.min_le_right _ _), List.take_eq_take_min]
  rw [htake]
  exact h.rotation _

/-- A sink that has received the first part of the bytes that it follows goes on following. -/
theorem follows_right {p : Params} {k : Sink} {bs cs : List (Tag × Byte)} {rot : BitVec 2}
    (h : Follows p k (bs ++ cs) rot) : Follows p (k.feedBytes p bs) cs rot := by
  refine ⟨by rw [← feedBytes_append]; exact h.inside, fun n => ?_⟩
  have htake : (bs ++ cs).take (bs.length + n) = bs ++ cs.take n := by simp [List.take_append]
  rw [← feedBytes_append, ← htake]
  exact h.rotation _

/-- A sink follows no bytes where it is within its contract and at the rotation. -/
theorem follows_nil {p : Params} {k : Sink} {rot : BitVec 2} (hk : k.outside = false)
    (hr : k.rotation p = some rot) : Follows p k [] rot := ⟨hk, fun n => by simpa using hr⟩

/-! ### Conforming states -/

/-- A sink that follows the bytes still to be sent at the engine's rotation conforms. -/
theorem conforming_of_follows {s : State} (h : Follows s.params s.sink s.unsent s.regs.rotation) :
    Conforming s :=
  ⟨h.inside, follows_end h, fun _ n _ => h.rotation n⟩

/-- While no SET_ROTATION runs, a sink that conforms follows the bytes still to be sent. -/
theorem follows_of_conforming {s : State} (h : Conforming s) (hrun : ∀ r, s.running ≠ some (.setRotation r)) :
    Follows s.params s.sink s.unsent s.regs.rotation := by
  obtain ⟨hinside, hend, hrotation⟩ := h
  refine ⟨hinside, fun n => ?_⟩
  rcases Nat.lt_or_ge n (s.unsent.length + 1) with hn | hn
  · exact hrotation hrun n hn
  · rw [List.take_of_length_le (by omega)]; exact hend

/-- A sink conforms to an engine that has nothing to send, if it is within its contract and at the engine's
rotation. -/
theorem conforming_of_unsent_nil {s : State} (h : s.unsent = []) (hk : s.sink.outside = false)
    (hr : s.sink.rotation s.params = some s.regs.rotation) : Conforming s :=
  conforming_of_follows (h ▸ follows_nil hk hr)

/-- Nothing is still to be sent where nothing is pending. -/
theorem unsent_of_pending_nil {s : State} (h : s.pending = []) : s.unsent = [] := by
  simp [State.unsent, h, wire]

/-- A sink that conforms to an idle engine is within its contract and at the engine's rotation. -/
theorem conforming_idle {s : State} (h : Conforming s) (hpending : s.pending = []) :
    s.sink.outside = false ∧ s.sink.rotation s.params = some s.regs.rotation := by
  obtain ⟨hinside, hend, -⟩ := h
  rw [unsent_of_pending_nil hpending] at hinside hend
  exact ⟨hinside, hend⟩

/-! ### A command accepted -/

/-- SET_ROTATION's two transactions put the controller at the rotation. -/
theorem feedAll_madctl {p : Params} {k : Sink} (hp : p.distinct) (r : BitVec 2) (hk : k.outside = false) :
    (k.feedAll p [.cmd p.cmdMadctl, .d8 (p.madctl r)]).outside = false ∧
      (k.feedAll p [.cmd p.cmdMadctl, .d8 (p.madctl r)]).rotation p = some r := by
  obtain ⟨-, -, -, hcaset, hpaset, hramwr⟩ := distinct_commands hp
  have hfeed : k.feedAll p [.cmd p.cmdMadctl, .d8 (p.madctl r)] =
      { k with mac := p.madctl r, streaming := false, latch := none, command := .idle, args := [] } := by
    simp [Sink.feedAll, wire, flat, Sink.feed, hk, Sink.commandByte, hcaset, hpaset, hramwr, Sink.dataByte]
  rw [hfeed]
  exact ⟨hk, rotation_of_mac hp rfl⟩

/-- Only SET_ROTATION writes the rotation. -/
theorem exec_rotation {i : Instr} {s t : State} (hi : ∀ r, i ≠ .setRotation r) (h : exec i s = .next t) :
    t.regs.rotation = s.regs.rotation := by
  rw [exec_regs h]
  by_contra hne
  obtain ⟨q, hq⟩ := (afterCommand_writers i s.regs t.regs).1 fun heq => hne (Prod.mk.inj heq).1
  exact hi q hq

/-- SET_ROTATION that an idle engine runs leads to a state to which the sink conforms. -/
theorem conforming_setRotation {s u : State} (r : BitVec 2) (hp : s.params.distinct) (hpending : s.pending = [])
    (htransferred : s.transferred = 0) (hk : s.sink.outside = false)
    (hexec : exec (.setRotation r) (s.takeCommand (some (.setRotation r))) = .next u) :
    Conforming u.settleBusy := by
  cases hexec
  obtain ⟨hinside, hrotation⟩ := feedAll_madctl hp r hk
  refine ⟨?_, ?_, fun hne => absurd ?_ (hne r)⟩
  · simpa [State.unsent, hpending, htransferred, Sink.feedAll] using hinside
  · simpa [State.unsent, hpending, htransferred, Sink.feedAll] using hrotation
  · simp [hpending]

/-- A command that an idle engine runs leads to a state to which the sink conforms. -/
theorem conforming_exec {s u : State} {i : Instr} (hinv : EngineInv s) (hp : s.params.distinct)
    (hidle : s.busy = false) (h : Conforming s) (hexec : exec i (s.takeCommand (some i)) = .next u) :
    Conforming u.settleBusy := by
  obtain ⟨hpending, htransferred⟩ := engineInv_idle hinv hidle
  obtain ⟨hk, hr⟩ := conforming_idle h hpending
  by_cases hi : ∃ r, i = .setRotation r
  · obtain ⟨r, rfl⟩ := hi
    exact conforming_setRotation r hp hpending htransferred hk hexec
  · have hi' : ∀ r, i ≠ .setRotation r := fun r hr => hi ⟨r, hr⟩
    have hframe := exec_drawFrame hi' hexec
    obtain ⟨rs, hrs⟩ := hframe.pending
    have hparams : u.params = s.params := by rw [hframe.others]; rfl
    have hsink : u.sink = s.sink := by rw [hframe.others]; rfl
    have htransferred' : u.transferred = 0 := by rw [hframe.others]; exact htransferred
    have hunsent : u.settleBusy.unsent = wire (rs.flatMap (Request.txns (s.takeCommand (some i)))) := by
      simp [State.unsent, hrs, htransferred', hpending]
    apply conforming_of_follows
    rw [hunsent, settleBusy_params, settleBusy_sink, settleBusy_regs, hparams, hsink, exec_rotation hi' hexec]
    exact follows_calls (s := s.takeCommand (some i)) rs hp hinv.1 hk hr

/-! ### The events -/

/-- What is kept of a command when its asset memory is rewritten holds every byte that is already on the
wire. -/
theorem transferred_le_kept {s : State} (hinv : EngineInv s) {kept : List Txn}
    (hkept : kept = s.committed ∨ kept = s.offeredWindow) : s.transferred ≤ (wire kept).length := by
  obtain ⟨-, -, -, -, htransferred, -⟩ := hinv
  have hoffered : s.transferred ≤ (wire s.offeredWindow).length := by
    cases hp : s.pending with
    | nil =>
      simp only [hp, List.head?_nil, Option.map_none, Option.getD_none] at htransferred
      exact htransferred.trans (Nat.zero_le _)
    | cons t rest =>
      rw [offeredWindow_cons s t rest hp, wire_cons, List.length_append]
      simp only [hp, List.head?_cons, Option.map_some, Option.getD_some] at htransferred
      omega
  rcases hkept with rfl | rfl
  · rcases committed_cases s with hc | ⟨hzero, -⟩
    · rw [hc]; exact hoffered
    · omega
  · exact hoffered

/-- The bytes still to be sent, where some transactions hold all that are already on the wire. -/
theorem drop_wire_append {n : Nat} {ts us : List Txn} (h : n ≤ (wire ts).length) :
    (wire (ts ++ us)).drop n = (wire ts).drop n ++ wire us := by
  rw [wire_append, List.drop_append_of_le_length h]

/-- A torn command: the sink follows what is kept of it, which it followed before, and then drawing calls. -/
theorem conforming_tear {s : State} (i : Instr) (hinv : EngineInv s) (hp : s.params.distinct)
    (h : Conforming s) (hrun : ∀ r, s.running ≠ some (.setRotation r)) : Conforming (s.tear i) := by
  obtain ⟨kept, rs, buf, heq, hkept, -, -⟩ := tear_eq s i
  have hlength := transferred_le_kept hinv hkept
  obtain ⟨rest, hrest⟩ : kept <+: s.pending := by
    rcases hkept with rfl | rfl
    · exact committed_prefix s
    · exact offeredWindow_prefix s
  have hfollows := follows_of_conforming h hrun
  rw [State.unsent, ← hrest, drop_wire_append hlength] at hfollows
  have hbefore := follows_left hfollows
  have hafter := follows_calls rs hp hinv.1 hbefore.inside (follows_end hbefore)
  apply conforming_of_follows
  rw [heq]
  simp only [State.unsent, torn_rotation]
  rw [drop_wire_append hlength]
  exact follows_append hbefore hafter

/-- SET_ROTATION reads no asset memory. -/
theorem setRotation_not_reads {s : State} {i : Instr} {a : Nat} (h : s.reads i a = true) (r : BitVec 2) :
    i ≠ .setRotation r := by
  rintro rfl
  exact absurd h (by simp [State.reads])

/-- The byte written alone, without what it does to the running command, keeps the engine's invariant. -/
theorem engineInv_writeMemory {s : State} (a : Half) (b : Byte) (h : EngineInv s) :
    EngineInv { s with amem := Memory.write s.amem a b } := by
  obtain ⟨hpanel, hsize, hb, hrun, htransferred, hchunk, hbuf, hmem⟩ := h
  exact ⟨hpanel, hsize, hb, hrun, htransferred, hchunk, hbuf, memory_write_wf s.amem a b hmem⟩

/-- A write of asset memory. -/
theorem conforming_writeAsset {s : State} (a : Half) (b : Byte) (hinv : EngineInv s) (hp : s.params.distinct)
    (h : Conforming s) : Conforming (s.writeAsset a b) := by
  rcases writeAsset_cases s a b with heq | ⟨i, hrun, -, hreads, heq⟩
  · rw [heq]; exact h
  · rw [heq]
    refine conforming_tear i (engineInv_writeMemory a b hinv) hp h fun r hr =>
      setRotation_not_reads hreads r ?_
    exact Option.some.inj (hrun.symm.trans hr)

/-- Some of the bytes still to be sent reach the sink, and the rest remains to be sent. -/
theorem conforming_sent {s t : State} {bs : List (Tag × Byte)} (h : Conforming s)
    (hunsent : s.unsent = bs ++ t.unsent) (hsink : t.sink = s.sink.feedBytes s.params bs)
    (hparams : t.params = s.params) (hregs : t.regs = s.regs)
    (hrun : t.running = s.running ∨ t.unsent = []) : Conforming t := by
  have hinside := h.1
  have hend := h.2.1
  rw [hunsent, feedBytes_append, ← hsink, ← hparams] at hinside hend
  rw [← hregs] at hend
  rcases hrun with hrun | hnil
  · refine ⟨hinside, hend, fun hne => ?_⟩
    have hfollows := follows_of_conforming h (hrun ▸ hne)
    rw [hunsent] at hfollows
    have hright := follows_right hfollows
    rw [← hsink, ← hparams, ← hregs] at hright
    exact fun n _ => hright.rotation n
  · rw [hnil] at hinside hend
    exact conforming_of_unsent_nil hnil hinside hend

/-- A transferred byte is the first of those still to be sent. -/
theorem conforming_transferByte {s : State} (h : Conforming s) : Conforming s.transferByte := by
  rcases transferByte_cases s with heq | ⟨u, us, b, hpending, hget, heq⟩
  · rw [heq]; exact h
  · exact conforming_sent (bs := [b]) h (transferByte_unsent s u us b hpending hget) (by rw [heq]; rfl)
      (by rw [heq]) (by rw [heq]) (.inl (by rw [heq]))

/-- An accepted transaction is the first of those still to be sent. -/
theorem conforming_acceptTransaction {s : State} (hinv : EngineInv s) (h : Conforming s) :
    Conforming s.acceptTransaction := by
  rcases acceptTransaction_cases s with ⟨-, heq⟩ | ⟨u, us, hpending, heq⟩
  · rw [heq]; exact h
  · obtain ⟨-, -, -, -, htransferred, -⟩ := hinv
    simp only [hpending, List.head?_cons, Option.map_some, Option.getD_some] at htransferred
    have hrest : s.acceptTransaction.unsent = wire us := by rw [heq]; rfl
    refine conforming_sent (bs := (flat u).drop s.transferred) h ?_ (by rw [heq]) (by rw [heq]) (by rw [heq]) ?_
    · rw [hrest, State.unsent, hpending, wire_cons, List.drop_append_of_le_length htransferred]
    · cases us with
      | nil => exact .inr hrest
      | cons v vs => exact .inl (by rw [heq]; rfl)

/-- Reset: nothing is left to send, and the controller is at the rotation that the engine assumes. -/
theorem conforming_applyReset {s : State} (h : Conforming s) (hr : s.sink.rotation s.params = some 0) :
    Conforming s.applyReset :=
  conforming_of_unsent_nil rfl (outside_of_feedBytes h.1) hr

/-- Every event, a reset only if the controller's rotation is 0. -/
theorem conforming_handle {s : State} (e : Input) (hinv : EngineInv s) (hp : s.params.distinct)
    (h : Conforming s) (hr : e = .reset → s.sink.rotation s.params = some 0) : Conforming (s.handle e) := by
  cases e with
  | present | changeWord | readRegister => exact h
  | assetWrite a b => exact conforming_writeAsset a b hinv hp h
  | adapterTransfers => exact conforming_transferByte h
  | adapterAccepts => exact conforming_acceptTransaction hinv h
  | reset => exact conforming_applyReset h (hr rfl)

/-- Settles O20, by what a step can do: a command accepted, a reserved word completed, nothing, or an event. -/
theorem stepKeepsConformance : Obligations.StepKeepsConformance := by
  intro s t hinv hp h hreset hstep
  have hsampled : Conforming s.sampled := by rw [sampled_eq]; exact h
  have hparams : s.sampled.params = s.params := by rw [sampled_eq]
  rcases step_cases s t hstep with
    ⟨cw, i, u, hidle, -, -, hexec, rfl⟩ | ⟨cw, e, hidle, -, -, rfl⟩ | ⟨-, -, rfl⟩ | ⟨e, es, hinputs, -, rfl⟩
  · exact conforming_exec (engineInv_sampled hinv) (hparams ▸ hp) ((sampled_busy s).trans hidle) hsampled hexec
  · obtain ⟨hpending, -⟩ := engineInv_idle (engineInv_sampled hinv) ((sampled_busy s).trans hidle)
    obtain ⟨hk, hr⟩ := conforming_idle hsampled hpending
    exact conforming_of_unsent_nil (unsent_of_pending_nil hpending) hk hr
  · exact h
  · refine conforming_handle (s := { s with inputs := es }) e hinv hp h fun he => hreset ?_
    rw [hinputs, he]; rfl

end Sys2Proof.Machine
end

section
/-! Settles O8: a step lets what has been emitted or is pending grow at its end only, or tears a command. -/

namespace Sys2Proof.Machine

/-- From `s` to `t` transactions may join the bus stream in order, at most one, and others may follow those still
to be emitted. -/
structure StreamGrows (s t : State) : Prop where
  bus : s.bus <+: t.bus
  atMostOne : t.bus.length ≤ s.bus.length + 1
  all : s.bus ++ s.pending <+: t.bus ++ t.pending
  offered : s.pending ≠ [] → t.bus = s.bus → t.pending.head? = s.pending.head?

/-- Transactions that follow those still to be emitted. -/
theorem streamGrows_pending {s t : State} (hbus : t.bus = s.bus) (hpending : s.pending <+: t.pending) :
    StreamGrows s t where
  bus := by rw [hbus]
  atMostOne := by rw [hbus]; exact Nat.le_succ _
  all := by rw [hbus]; exact (List.prefix_append_right_inj _).mpr hpending
  offered hne _ := by
    obtain ⟨u, us, hp⟩ := List.exists_cons_of_ne_nil hne
    obtain ⟨ts, hts⟩ := hpending
    rw [← hts, hp]; rfl

/-- Nothing emitted, nothing pending added. -/
theorem streamGrows_refl {s t : State} (hbus : t.bus = s.bus) (hpending : t.pending = s.pending) :
    StreamGrows s t := streamGrows_pending hbus (by rw [hpending])

/-- An accepted transaction moves from what is pending to the end of the bus stream. -/
theorem streamGrows_acceptTransaction (s : State) : StreamGrows s s.acceptTransaction := by
  rcases acceptTransaction_cases s with ⟨-, heq⟩ | ⟨u, us, hpending, heq⟩
  · rw [heq]; exact streamGrows_refl rfl rfl
  · rw [heq]
    refine ⟨List.prefix_append _ _, ?_, ?_, fun _ hbus => ?_⟩
    · rw [List.length_append]; rfl
    · rw [hpending, List.append_assoc]; exact List.prefix_rfl
    · exact absurd hbus (by simp)

/-- What is sent whatever happens is a part of what is pending, so it stays. -/
theorem StreamGrows.committed {s t : State} (h : StreamGrows s t) :
    s.bus ++ s.committed <+: t.bus ++ t.pending :=
  ((List.prefix_append_right_inj _).mpr (committed_prefix s)).trans h.all

/-- From `s` to `t` what is pending may change after the window that is being sent, and the offered transaction
stays. -/
structure StreamTorn (s t : State) : Prop where
  bus : t.bus = s.bus
  committed : s.committed <+: t.pending
  offered : s.pending ≠ [] → t.pending.head? = s.pending.head?

/-- A torn command keeps the bus stream, the window that is being sent and the offered transaction. -/
theorem streamTorn_tear (s : State) (i : Instr) : StreamTorn s (s.tear i) := by
  obtain ⟨kept, rs, buf, heq, hkept, hhead, -⟩ := tear_eq s i
  rw [heq]
  refine ⟨rfl, ?_, hhead⟩
  rcases hkept with rfl | rfl
  · exact List.prefix_append _ _
  · rcases committed_cases s with hc | ⟨-, -, hc⟩
    · rw [hc]; exact List.prefix_append _ _
    · rw [hc]; exact List.nil_prefix

/-- A write of asset memory leaves the stream alone, unless it tears the command that a busy engine runs. -/
theorem stream_writeAsset (s : State) (a : Half) (b : Byte) :
    StreamGrows s (s.writeAsset a b) ∨ s.busy = true ∧ StreamTorn s (s.writeAsset a b) := by
  rcases writeAsset_cases s a b with heq | ⟨i, -, hbusy, -, heq⟩
  · exact .inl (by rw [heq]; exact streamGrows_refl rfl rfl)
  · refine .inr ⟨hbusy, ?_⟩
    obtain ⟨hbus, hcommitted, hoffered⟩ := streamTorn_tear { s with amem := Memory.write s.amem a b } i
    rw [heq]
    exact ⟨hbus, hcommitted, hoffered⟩

/-- Every event but reset: only a write of asset memory to a busy engine tears the stream. -/
theorem stream_handle (s : State) {e : Input} (hreset : e ≠ .reset) :
    StreamGrows s (s.handle e) ∨ s.busy = true ∧ (∃ a b, e = .assetWrite a b) ∧ StreamTorn s (s.handle e) := by
  cases e with
  | present | changeWord | readRegister => exact .inl (streamGrows_refl rfl rfl)
  | assetWrite a b => exact (stream_writeAsset s a b).imp id fun ⟨hbusy, htorn⟩ => ⟨hbusy, ⟨a, b, rfl⟩, htorn⟩
  | adapterTransfers =>
    change StreamGrows s s.transferByte ∨ _
    rcases transferByte_cases s with heq | ⟨u, us, b, -, -, heq⟩
    · exact .inl (by rw [heq]; exact streamGrows_refl rfl rfl)
    · exact .inl (by rw [heq]; exact streamGrows_refl rfl rfl)
  | adapterAccepts => exact .inl (streamGrows_acceptTransaction s)
  | reset => exact absurd rfl hreset

/-- A command emits after what is pending. -/
theorem streamGrows_exec {s u : State} {i : Instr} (h : exec i (s.sampled.takeCommand (some i)) = .next u) :
    StreamGrows s u.settleBusy := by
  have hframe := exec_commandFrame h
  obtain ⟨ts, hts, -⟩ := hframe.pending
  have hu := hframe.others
  rw [sampled_eq] at hts hu
  exact streamGrows_pending (by rw [settleBusy_bus, hu]; rfl) ⟨ts, by rw [settleBusy_pending, hts]; rfl⟩

/-- Every step but a reset: only a write of asset memory to a busy engine tears the stream. -/
theorem stream_step {s t : State} (hreset : s.noReset) (hstep : step s = .next t) :
    StreamGrows s t ∨
      s.busy = true ∧ (∃ a b, s.inputs.head? = some (.assetWrite a b)) ∧ StreamTorn s t := by
  rcases step_cases s t hstep with
    ⟨cw, i, u, -, -, -, hexec, rfl⟩ | ⟨cw, e, -, -, -, rfl⟩ | ⟨-, -, rfl⟩ | ⟨e, es, hinputs, -, rfl⟩
  · exact .inl (streamGrows_exec hexec)
  · rw [sampled_eq]; exact .inl (streamGrows_refl rfl rfl)
  · exact .inl (streamGrows_refl rfl rfl)
  · have hne : e ≠ .reset := by
      rintro rfl
      exact hreset (by rw [hinputs]; rfl)
    rcases stream_handle { s with inputs := es } hne with hgrows | ⟨hbusy, ⟨a, b, rfl⟩, htorn⟩
    · exact .inl ⟨hgrows.bus, hgrows.atMostOne, hgrows.all, hgrows.offered⟩
    · exact .inr ⟨hbusy, ⟨a, b, by rw [hinputs]; rfl⟩, ⟨htorn.bus, htorn.committed, htorn.offered⟩⟩

/-- Settles O8: the stream grows, or a busy engine's command is torn by a write of asset memory. -/
theorem busStreamOnlyGrows : Obligations.BusStreamOnlyGrows := by
  intro s t hreset hstep
  rcases stream_step hreset hstep with hgrows | ⟨hbusy, ⟨a, b, hinput⟩, htorn⟩
  · exact ⟨hgrows.bus, hgrows.atMostOne, hgrows.committed, fun _ => hgrows.all, hgrows.offered⟩
  · refine ⟨by rw [htorn.bus], by rw [htorn.bus]; exact Nat.le_succ _, ?_, ?_, fun hne _ => htorn.offered hne⟩
    · rw [htorn.bus]; exact (List.prefix_append_right_inj _).mpr htorn.committed
    · rintro (hidle | hnone)
      · rw [hbusy] at hidle; exact absurd hidle (by decide)
      · exact absurd hinput (hnone a b)

end Sys2Proof.Machine
end

section
/-! Settles O14 and O41: single bytes, two-byte fields and the structures of asset memory and of the ROM. -/

namespace Sys2Proof.Machine

/-- An address is reduced modulo 65536 before it is read (spec/20_memory.md R52). -/
theorem memory_read_mod (m : List Host.Cell) (a : Nat) : Memory.read m (a % 65536) = Memory.read m a := by
  simp only [Memory.read, Nat.mod_mod]

/-- A one-byte read, its address reduced. -/
theorem asset8_eq (s : State) (a : Nat) : s.asset8 a = (Memory.read s.amem (a % 65536)).toNat := by
  rw [memory_read_mod]; rfl

/-- Settles O14: a two-byte read is two one-byte reads, the most significant byte first. -/
theorem assetAddressesWrapBigEndian : Obligations.AssetAddressesWrapBigEndian := by
  intro s a
  refine ⟨asset8_eq s a, ?_⟩
  rw [State.asset16, asset8_eq s a, asset8_eq s (a + 1)]

/-- A signed 8-bit field is its byte, less 256 from 128 on. -/
theorem s8_eq (v : Nat) : s8 v = (v : Int) - (if v < 128 then 0 else 256) := by
  unfold s8
  split <;> simp

/-- A bit of a bitmap in asset memory, as the remainder of a quotient of its byte. -/
theorem assetBit_iff (s : State) (base k : Nat) : s.assetBit base k = true ↔
    s.asset8 (base + k / 8) / 2 ^ (7 - k % 8) % 2 = 1 := by
  rw [State.assetBit, Nat.testBit_eq_decide_div_mod_eq, decide_eq_true_eq]

/-- A code's place among the 95 glyphs of the ROM: codes without a glyph have the space's. -/
theorem fixedCode_sub (ch : Nat) : fixedCode ch - 32 = if 32 ≤ ch ∧ ch ≤ 126 then ch - 32 else 0 := by
  unfold fixedCode
  split <;> rfl

/-- A bit of a fixed glyph, as the remainder of a quotient of its column's byte. -/
theorem fixedBit_iff (s : State) (ch i j : Nat) : s.fixedBit ch i j = true ↔
    (s.params.fixedFontRom.toList[(if 32 ≤ ch ∧ ch ≤ 126 then ch - 32 else 0) * 5 + i]?.getD 0).toNat /
      2 ^ j % 2 = 1 := by
  rw [State.fixedBit, Nat.testBit_eq_decide_div_mod_eq, decide_eq_true_eq, fixedCode_sub]
  rfl

/-- Settles O41: strings and headers by definition, the signed fields by `s8_eq`, the bits as remainders. -/
theorem assetLayouts : Obligations.AssetLayouts := by
  intro s f ch
  refine ⟨fun _ _ => rfl, rfl, rfl, ?_, fun g k => assetBit_iff s _ k, fun addr w i j => assetBit_iff s _ i,
    fun i _ j _ => fixedBit_iff s ch i j⟩
  rintro a - rfl
  simp only [State.glyphOf, State.glyphAt, State.firstCode, s8_eq]
  rfl

end Sys2Proof.Machine
end

section
/-! Settles O13: a write of a byte is seen at its address alone, and a command that does not read the address
has the same result whatever byte is there. -/

namespace Sys2Proof.Machine

/-! ### The step of a write -/

/-- A write that is no hazard writes the byte and does nothing else. -/
theorem writeAsset_of_not_hazard {s : State} {a : Half} {b : Byte} (h : s.hazard a b = false) :
    s.writeAsset a b = { s with amem := Memory.write s.amem a b } := by
  unfold State.writeAsset
  rw [h]
  split <;> rfl

/-- What a hazard is: another byte at an address that the running command reads. -/
theorem hazard_cases {s : State} {a : Half} {b : Byte} (h : s.hazard a b = true) :
    ∃ i, s.busy = true ∧ s.running = some i ∧ s.reads i a.toNat = true ∧ cellAt s.amem a.toNat ≠ some b := by
  simp only [State.hazard, Bool.and_eq_true, Option.any_eq_true, bne_iff_ne] at h
  obtain ⟨⟨hbusy, i, hrun, hreads⟩, hcell⟩ := h
  exact ⟨i, hbusy, hrun, hreads, hcell⟩

/-- A write that is a hazard writes the byte and tears the running command. -/
theorem writeAsset_of_hazard {s : State} {a : Half} {b : Byte} {i : Instr} (hrun : s.running = some i)
    (h : s.hazard a b = true) :
    s.writeAsset a b = State.tear { s with amem := Memory.write s.amem a b } i := by
  unfold State.writeAsset
  rw [hrun]
  exact if_pos h

/-! ### The host's write under a command -/

/-- The state with another byte at an address. -/
def State.poke (s : State) (a : Half) (b : Byte) : State := { s with amem := Memory.write s.amem a b }

@[simp] theorem poke_regs (s : State) (a : Half) (b : Byte) : (s.poke a b).regs = s.regs := rfl
@[simp] theorem poke_params (s : State) (a : Half) (b : Byte) : (s.poke a b).params = s.params := rfl

/-- The byte written and the registers written, in either order. -/
theorem poke_setRegs (s : State) (a : Half) (b : Byte) (r : Registers) :
    { s.poke a b with regs := r } = State.poke { s with regs := r } a b := rfl

/-- A drawing call reads no asset memory. -/
theorem draw_poke (s : State) (a : Half) (b : Byte) (r : Request) :
    (s.poke a b).draw r = (s.draw r).poke a b := by
  have htxns : r.txns (s.poke a b) = r.txns s := txns_congr s (s.poke a b) r rfl rfl rfl
  have hbuffer : r.buffer (s.poke a b) = r.buffer s := by cases r <;> rfl
  rw [draw_eq, draw_eq, htxns, hbuffer]
  rfl

/-- Drawing calls read no asset memory. -/
theorem drawAll_poke (s : State) (a : Half) (b : Byte) (rs : List Request) :
    (s.poke a b).drawAll rs = (s.drawAll rs).poke a b := by
  induction rs generalizing s with
  | nil => rfl
  | cons r rs ih =>
    change ((s.poke a b).draw r).drawAll rs = ((s.draw r).drawAll rs).poke a b
    rw [draw_poke, ih]

/-! ### Reads beside the byte -/

/-- An address that is none of `n` from `base` on. -/
theorem ne_of_within_false {a base n k : Nat} (h : within a base n = false) (hk : k < n) :
    (base + k) % 65536 ≠ a := by
  simp only [within, decide_eq_false_iff_not] at h
  omega

section Beside

variable {s : State} {a : Half} {b : Byte}

/-- A read beside the byte. -/
theorem asset8_poke {base n k : Nat} (h : within a.toNat base n = false) (hk : k < n) :
    (s.poke a b).asset8 (base + k) = s.asset8 (base + k) :=
  congrArg BitVec.toNat (memory_read_write_other s.amem a b _ (ne_of_within_false h hk))

/-- A two-byte read beside the byte. -/
theorem asset16_poke {base n k : Nat} (h : within a.toNat base n = false) (hk : k + 1 < n) :
    (s.poke a b).asset16 (base + k) = s.asset16 (base + k) := by
  simp only [State.asset16]
  rw [asset8_poke h (Nat.lt_of_succ_lt hk), Nat.add_assoc, asset8_poke h hk]

/-- A string beside the byte. -/
theorem characters_poke {addr len : Nat} (h : within a.toNat addr len = false) :
    (s.poke a b).characters addr len = s.characters addr len :=
  List.map_congr_left fun _ hi => asset8_poke h (List.mem_range.mp hi)

/-- A bit of a bitmap beside the byte. -/
theorem assetBit_poke {base n k j : Nat} (h : within a.toNat base n = false) (hk : j + k / 8 < n) :
    (s.poke a b).assetBit (base + j) k = s.assetBit (base + j) k := by
  simp only [State.assetBit]
  rw [Nat.add_assoc, asset8_poke h hk]

/-- A glyph record beside the byte. -/
theorem glyphAt_poke {x : Nat} (h : within a.toNat x 7 = false) : (s.poke a b).glyphAt x = s.glyphAt x := by
  have h0 : (s.poke a b).asset16 x = s.asset16 x := asset16_poke (k := 0) h (by decide)
  simp only [State.glyphAt, h0]
  rw [asset8_poke h (by decide), asset8_poke h (by decide), asset8_poke h (by decide),
    asset8_poke h (by decide), asset8_poke h (by decide)]

/-- A blit's source beside the byte. -/
theorem blit_poke {addr w h : Nat} (x y : Int) (fg : Colour) (bg : Option Colour)
    (hread : within a.toNat addr (h * ((w + 7) / 8)) = false) :
    (s.poke a b).blit x y addr w h fg bg = s.blit x y addr w h fg bg := by
  refine List.flatMap_congr fun j hj => List.flatMap_congr fun i hi => ?_
  rw [List.mem_range] at hj hi
  have hoffset : j * ((w + 7) / 8) + i / 8 < h * ((w + 7) / 8) := by
    calc j * ((w + 7) / 8) + i / 8 < j * ((w + 7) / 8) + (w + 7) / 8 := by omega
      _ = (j + 1) * ((w + 7) / 8) := (Nat.succ_mul _ _).symm
      _ ≤ h * ((w + 7) / 8) := Nat.mul_le_mul_right _ hj
  rw [State.blitBit, State.blitBit, assetBit_poke hread hoffset]

/-! ### Text beside the byte -/

/-- The font header is beside the byte, if a variable font is active. -/
theorem header_unread {chs : List Nat} {x : Nat} (h : s.textReads chs x = false)
    (hf : s.regs.activeFont ≠ 0) : within x (u16 s.regs.activeFont) 7 = false := by
  simp only [State.textReads, Bool.and_eq_false_iff, Bool.or_eq_false_iff, bne_eq_false_iff_eq] at h
  exact (h.resolve_left hf).1

/-- The record and the bitmap of a drawable character are beside the byte, if a variable font is active. -/
theorem glyph_unread {chs : List Nat} {x ch : Nat} (h : s.textReads chs x = false)
    (hf : s.regs.activeFont ≠ 0) (hch : ch ∈ chs) (hd : s.drawable ch = true) :
    within x (s.glyphBase (u16 s.regs.activeFont) + (ch - s.firstCode (u16 s.regs.activeFont)) * 8) 7 = false ∧
      within x (s.bitmapBase (u16 s.regs.activeFont) + (s.glyphOf (u16 s.regs.activeFont) ch).bitmapOffset)
        (((s.glyphOf (u16 s.regs.activeFont) ch).width *
          (s.glyphOf (u16 s.regs.activeFont) ch).height + 7) / 8) = false := by
  simp only [State.textReads, Bool.and_eq_false_iff, Bool.or_eq_false_iff, bne_eq_false_iff_eq,
    List.any_eq_false] at h
  simpa [hd] using (h.resolve_left hf).2 ch hch

/-- What a list of characters reads, each of them reads or the header is. -/
theorem textReads_of_subset {chs ds : List Nat} {x : Nat} (h : s.textReads chs x = false) (hsub : ds ⊆ chs) :
    s.textReads ds x = false := by
  simp only [State.textReads, Bool.and_eq_false_iff, Bool.or_eq_false_iff, List.any_eq_false] at h ⊢
  exact h.imp id fun ⟨hheader, hglyphs⟩ => ⟨hheader, fun ch hch => hglyphs ch (hsub hch)⟩

/-- Operations that leave the font and asset memory alone leave what text reads alone. -/
theorem textReads_cursorFrame {t : State} (h : CursorFrame s t) : t.textReads = s.textReads := by
  rw [h.1]; rfl

section Text

variable {chs : List Nat} (h : s.textReads chs a.toNat = false)

include h

/-- The fields of the font header. -/
theorem header_poke (hf : s.regs.activeFont ≠ 0) :
    (s.poke a b).bitmapBase (u16 s.regs.activeFont) = s.bitmapBase (u16 s.regs.activeFont) ∧
    (s.poke a b).glyphBase (u16 s.regs.activeFont) = s.glyphBase (u16 s.regs.activeFont) ∧
    (s.poke a b).firstCode (u16 s.regs.activeFont) = s.firstCode (u16 s.regs.activeFont) ∧
    (s.poke a b).lastCode (u16 s.regs.activeFont) = s.lastCode (u16 s.regs.activeFont) ∧
    (s.poke a b).yAdvance (u16 s.regs.activeFont) = s.yAdvance (u16 s.regs.activeFont) := by
  have hheader := header_unread h hf
  exact ⟨asset16_poke (k := 0) hheader (by decide), asset16_poke hheader (by decide),
    asset8_poke hheader (by decide), asset8_poke hheader (by decide), asset8_poke hheader (by decide)⟩

/-- The line advance. -/
theorem lineAdvance_poke : (s.poke a b).lineAdvance = s.lineAdvance := by
  by_cases hf : s.regs.activeFont = 0
  · simp [State.lineAdvance, hf]
  · obtain ⟨-, -, -, -, hadvance⟩ := header_poke (b := b) h hf
    simp [State.lineAdvance, hadvance]

/-- Which characters are drawable. -/
theorem drawable_poke : (s.poke a b).drawable = s.drawable := by
  funext ch
  by_cases hf : s.regs.activeFont = 0
  · simp [State.drawable, hf]
  · obtain ⟨-, -, hfirst, hlast, -⟩ := header_poke (b := b) h hf
    simp [State.drawable, hfirst, hlast]

/-- The glyph record of a drawable character. -/
theorem glyphOf_poke {ch : Nat} (hf : s.regs.activeFont ≠ 0) (hch : ch ∈ chs) (hd : s.drawable ch = true) :
    (s.poke a b).glyphOf (u16 s.regs.activeFont) ch = s.glyphOf (u16 s.regs.activeFont) ch := by
  obtain ⟨-, hbase, hfirst, -, -⟩ := header_poke (b := b) h hf
  obtain ⟨hrecord, -⟩ := glyph_unread h hf hch hd
  rw [State.glyphOf, State.glyphOf, hbase, hfirst, glyphAt_poke hrecord]

/-- The advance of a drawable character. -/
theorem advance_poke {ch : Nat} (hch : ch ∈ chs) (hd : s.drawable ch = true) :
    (s.poke a b).advance ch = s.advance ch := by
  by_cases hf : s.regs.activeFont = 0
  · simp [State.advance, hf]
  · simp [State.advance, glyphOf_poke h hf hch hd]

/-- A bit of a drawable character's bitmap. -/
theorem glyphBit_poke {ch k : Nat} (hf : s.regs.activeFont ≠ 0) (hch : ch ∈ chs) (hd : s.drawable ch = true)
    (hk : k < (s.glyphOf (u16 s.regs.activeFont) ch).width * (s.glyphOf (u16 s.regs.activeFont) ch).height) :
    (s.poke a b).glyphBit (u16 s.regs.activeFont) (s.glyphOf (u16 s.regs.activeFont) ch) k =
      s.glyphBit (u16 s.regs.activeFont) (s.glyphOf (u16 s.regs.activeFont) ch) k := by
  obtain ⟨hbase, -⟩ := header_poke (b := b) h hf
  obtain ⟨-, hbitmap⟩ := glyph_unread h hf hch hd
  have hbit := assetBit_poke (s := s) (b := b) (j := 0) (k := k) hbitmap (by omega)
  rw [Nat.add_zero] at hbit
  rw [State.glyphBit, State.glyphBit, hbase, hbit]

/-- The calls that draw a drawable character. -/
theorem glyphRequests_poke {ch : Nat} (hch : ch ∈ chs) (hd : s.drawable ch = true) :
    (s.poke a b).glyphRequests ch = s.glyphRequests ch := by
  by_cases hf : s.regs.activeFont = 0
  · simp only [State.glyphRequests, poke_regs, hf, if_true]; rfl
  · have hbit {xx yy : Nat} (hx : xx < (s.glyphOf (u16 s.regs.activeFont) ch).width)
        (hy : yy < (s.glyphOf (u16 s.regs.activeFont) ch).height) :=
      glyphBit_poke (b := b) (k := yy * (s.glyphOf (u16 s.regs.activeFont) ch).width + xx) h hf hch hd
        (by calc yy * (s.glyphOf (u16 s.regs.activeFont) ch).width + xx
                < (yy + 1) * (s.glyphOf (u16 s.regs.activeFont) ch).width := by
                  rw [Nat.succ_mul]; exact Nat.add_lt_add_left hx _
              _ ≤ (s.glyphOf (u16 s.regs.activeFont) ch).height *
                    (s.glyphOf (u16 s.regs.activeFont) ch).width := Nat.mul_le_mul_right _ hy
              _ = _ := Nat.mul_comm _ _)
    simp only [State.glyphRequests, poke_regs, if_neg hf, glyphOf_poke h hf hch hd]
    congr 1
    · simp only [State.varUnscaled]
      refine congrArg (_ ++ ·) (List.flatMap_congr fun yy hy => ?_)
      have hrow : (s.poke a b).glyphRow (u16 s.regs.activeFont) (s.glyphOf (u16 s.regs.activeFont) ch) yy =
          s.glyphRow (u16 s.regs.activeFont) (s.glyphOf (u16 s.regs.activeFont) ch) yy :=
        List.map_congr_left fun xx hx => hbit (List.mem_range.mp hx) (List.mem_range.mp hy)
      rw [hrow]; rfl
    · refine List.flatMap_congr fun yy hy => List.flatMap_congr fun xx hx => ?_
      rw [hbit (List.mem_range.mp hx) (List.mem_range.mp hy)]; rfl

/-- What a string measures. -/
theorem measure_poke : (s.poke a b).measure chs = s.measure chs := by
  have hwidth : (s.poke a b).measureWidth chs = s.measureWidth chs := by
    simp only [State.measureWidth, drawable_poke h]
    refine congrArg List.sum (List.map_congr_left fun ch hch => ?_)
    rw [List.mem_filter] at hch
    exact advance_poke h hch.1 hch.2
  by_cases hf : s.regs.activeFont = 0
  · simp [State.measure, hf, hwidth]
  · have hglyphs : (s.poke a b).glyphsOf chs = s.glyphsOf chs := by
      simp only [State.glyphsOf, drawable_poke h, poke_regs]
      refine List.map_congr_left fun ch hch => ?_
      rw [List.mem_filter] at hch
      exact glyphOf_poke h hf hch.1 hch.2
    simp only [State.measure, poke_regs, hwidth, hglyphs]

end Text

/-! ### Loops over characters -/

/-- A newline. -/
theorem newline_poke {chs : List Nat} (h : s.textReads chs a.toNat = false) :
    (s.poke a b).newline = s.newline.poke a b := by
  simp only [State.newline, lineAdvance_poke h]
  rfl

/-- One character. -/
theorem putChar_poke {ch : Nat} (h : s.textReads [ch] a.toNat = false) :
    (s.poke a b).putChar ch = (s.putChar ch).poke a b := by
  cases hd : s.drawable ch with
  | false => simp [State.putChar, drawable_poke h, hd]
  | true =>
    have hglyph : (s.poke a b).glyph ch = (s.glyph ch).poke a b := by
      simp only [State.glyph, drawable_poke h, hd, if_true, glyphRequests_poke h List.mem_cons_self hd,
        drawAll_poke]
    have hread : (s.glyph ch).textReads [ch] a.toNat = false := by
      rw [textReads_cursorFrame (glyph_cursorFrame s ch)]; exact h
    have hd' : (s.glyph ch).drawable ch = true := by
      rw [(glyph_cursorFrame s ch).1]; exact hd
    simp only [State.putChar, drawable_poke h, hd, if_true, hglyph, State.advanceCursor,
      advance_poke hread List.mem_cons_self hd']
    rfl

/-- One character of PRINT. -/
theorem printChar_poke {ch : Nat} (h : s.textReads [ch] a.toNat = false) :
    (s.poke a b).printChar ch = (s.printChar ch).poke a b := by
  unfold State.printChar
  split
  · exact newline_poke h
  · exact putChar_poke h

/-- A loop over characters, each turn of which leaves the font and asset memory alone. -/
theorem foldl_poke (f : State → Nat → State) (hframe : ∀ s ch, CursorFrame s (f s ch))
    (hf : ∀ s ch, s.textReads [ch] a.toNat = false → f (s.poke a b) ch = (f s ch).poke a b)
    (chs : List Nat) (s : State) (h : s.textReads chs a.toNat = false) :
    chs.foldl f (s.poke a b) = (chs.foldl f s).poke a b := by
  induction chs generalizing s with
  | nil => rfl
  | cons ch chs ih =>
    have hread : (f s ch).textReads chs a.toNat = false := by
      rw [textReads_cursorFrame (hframe s ch)]
      exact textReads_of_subset h (List.subset_cons_self ch chs)
    rw [List.foldl_cons, List.foldl_cons, hf s ch (textReads_of_subset h (by simp)), ih _ hread]

/-- The loop of PRINT. -/
theorem printAll_poke {chs : List Nat} (h : s.textReads chs a.toNat = false) :
    (s.poke a b).printAll chs = (s.printAll chs).poke a b :=
  foldl_poke _ printChar_cursorFrame (fun _ _ => printChar_poke) chs s h

/-- The loop of the string commands. -/
theorem putAll_poke {chs : List Nat} (h : s.textReads chs a.toNat = false) :
    (s.poke a b).putAll chs = (s.putAll chs).poke a b :=
  foldl_poke _ putChar_cursorFrame (fun _ _ => putChar_poke) chs s h

/-- The string commands from the measured width on. -/
theorem drawAnchored_poke {chs : List Nat} (saved : Registers) (x y : Int)
    (h : s.textReads chs a.toNat = false) :
    (s.poke a b).drawAnchored saved chs x y = (s.drawAnchored saved chs x y).poke a b := by
  simp only [State.drawAnchored]
  rw [measure_poke h]
  have hloop := putAll_poke (b := b) (s := { s with
    regs := s.regs.setCursor (s.anchor x y (s.measure chs)).1 (s.anchor x y (s.measure chs)).2 }) h
  exact congrArg (fun t : State => { t with regs := t.regs.restoreText saved (s.measure chs).width }) hloop

/-! ### The commands -/

/-- A string is beside the byte, and so is what drawing and measuring it reads. -/
theorem stringReads_false {addr len x : Nat} (h : s.stringReads addr len x = false) :
    within x addr len = false ∧ s.textReads (s.characters addr len) x = false := by
  simpa [State.stringReads] using h

/-- The selection of a font and the write of a byte, in either order. -/
theorem selectFont_poke (s : State) (a : Half) (b : Byte) (sel : Nat) :
    (s.poke a b).selectFont sel = (s.selectFont sel).poke a b := rfl

/-- The selection of a font leaves every string alone. -/
theorem characters_selectFont (s : State) (sel addr len : Nat) :
    (s.selectFont sel).characters addr len = s.characters addr len := rfl

/-- A command that does not read the address of the byte. -/
theorem exec_poke (i : Instr) {t : State} (h : s.reads i a.toNat = false) (hexec : exec i s = .next t) :
    exec i (s.poke a b) = .next (t.poke a b) := by
  cases i with
  | nop | setRotation | packRgb | setCursor | setTextColor | setTextColorBg | setTextSize | setTextDatum
  | setFreeFont | setFontSlot => cases hexec; rfl
  | drawPixel =>
    cases hexec
    simp only [exec, execDrawPixel, pixel_eq_drawAll, drawAll_poke]
  | fillRect =>
    cases hexec
    simp only [exec, execFillRect, fill_eq_drawAll, drawAll_poke]
  | drawLine | drawRect | drawCircle | fillCircle =>
    cases hexec
    simp only [exec, execDrawLine, execDrawRect, execDrawCircle, execFillCircle, drawAll_poke]
  | drawBitmap | drawBitmapBg =>
    cases hexec
    simp only [exec, execDrawBitmap, execDrawBitmapBg]
    rw [blit_poke _ _ _ _ h, drawAll_poke]
  | print addr len =>
    obtain ⟨hstring, htext⟩ := stringReads_false h
    cases hexec
    simp only [exec, execPrint]
    rw [characters_poke hstring, printAll_poke htext]
  | println addr len =>
    obtain ⟨hstring, htext⟩ := stringReads_false h
    have hline : (s.printAll (s.characters (u16 addr) (u8 len))).textReads (s.characters (u16 addr) (u8 len))
        a.toNat = false := by
      rw [textReads_cursorFrame (printAll_cursorFrame s _)]; exact htext
    cases hexec
    simp only [exec, execPrintln]
    rw [characters_poke hstring, printAll_poke htext, newline_poke hline]
  | drawString addr len x y sel =>
    obtain ⟨hstring, htext⟩ := stringReads_false h
    rw [characters_selectFont] at htext
    cases hexec
    simp only [exec, execDrawString]
    rw [characters_poke hstring, selectFont_poke, poke_regs, drawAnchored_poke _ _ _ htext]
  | drawCentreString addr len x y sel =>
    obtain ⟨hstring, htext⟩ := stringReads_false h
    rw [characters_selectFont] at htext
    cases hexec
    simp only [exec, execDrawCentreString]
    rw [characters_poke hstring, selectFont_poke, poke_regs, measure_poke htext, drawAnchored_poke _ _ _ htext]

/-- A command leaves asset memory alone. -/
theorem exec_amem {i : Instr} {t : State} (h : exec i s = .next t) : t.amem = s.amem := by
  rw [(exec_commandFrame h).others]

/-- A write of a byte, seen at its address alone. -/
theorem memory_write_seen {t : State} (h : t.amem = Memory.write s.amem a b) :
    Memory.read t.amem a.toNat = b ∧
      ∀ n, n % 65536 ≠ a.toNat → Memory.read t.amem n = Memory.read s.amem n := by
  rw [h]
  exact ⟨memory_read_write_same s.amem a b, memory_read_write_other s.amem a b⟩

end Beside

/-- Settles O13: the first clause by what a hazard is, the second one command after another. -/
theorem assetWriteIsSeenAndLocal : Obligations.AssetWriteIsSeenAndLocal := by
  refine ⟨fun s a b es hwaiting hinputs => ⟨_, step_event hwaiting hinputs, ?_⟩, fun i s t a b h hexec => ?_⟩
  · change Memory.read (State.writeAsset { s with inputs := es } a b).amem a.toNat = b ∧ _
    cases hhazard : State.hazard { s with inputs := es } a b with
    | false =>
      have heq := writeAsset_of_not_hazard hhazard
      obtain ⟨hseen, hothers⟩ := memory_write_seen (s := s) (congrArg State.amem heq)
      exact ⟨hseen, hothers, .inl (by rw [State.handle, heq])⟩
    | true =>
      obtain ⟨i, hbusy, hrun, hreads, hcell⟩ := hazard_cases hhazard
      have heq := writeAsset_of_hazard hrun hhazard
      obtain ⟨kept, rs, buf, htear, hkept, hhead, -⟩ :=
        tear_eq { s with inputs := es, amem := Memory.write s.amem a b } i
      have hall := heq.trans htear
      obtain ⟨hseen, hothers⟩ := memory_write_seen (s := s) (congrArg State.amem hall)
      refine ⟨hseen, hothers, .inr ⟨i, kept, rs, hbusy, hrun, hreads, hcell, hkept, ?_, ?_⟩⟩
      · rw [State.handle, hall]; exact hhead
      · rw [State.handle, hall]
        exact congrArg (fun r : Registers => { s with
          amem := Memory.write s.amem a b
          inputs := es
          pending := kept ++ rs.flatMap (Request.txns s)
          chunk := buf
          free := s.free + 1
          regs := r }) (torn_eq s.regs i s.free)
  · have hpoke := exec_poke (b := b) i h hexec
    simp only [State.poke, exec_amem hexec] at hpoke
    exact hpoke

end Sys2Proof.Machine
end

section
/-! Settles O1, O2 and O3: a word decodes, if its opcode is assigned, to the command whose own word keeps the
opcode and the carried values of the slots and has zero in every other bit (`assembled`). -/

namespace Sys2Proof

/-! ### The word of a command -/

/-- Settles O1, one command after another: the opcode and the slots of a packed word are what was put there, and
a narrow operand is read back from its slot. -/
theorem decodeOfEncode : Obligations.DecodeOfEncode := by
  intro i
  cases i <;> simp [encode, decode, field16, field8, field2]

/-- Different commands have different words. -/
theorem encode_injective {i j : Instr} (h : encode i = encode j) : i = j := by
  have hdecode : (.ok i : Except DecodeError Instr) = .ok j := by
    rw [← decodeOfEncode i, ← decodeOfEncode j, h]
  exact Except.ok.inj hdecode

/-! ### What a slot carries -/

/-- A whole slot carries all of itself. -/
@[simp] theorem ofNat_carried_whole (v : Half) : BitVec.ofNat 16 (CommandWord.carried .whole v) = v := by
  simp [CommandWord.carried]

/-- The carried byte, back in its slot. -/
@[simp] theorem ofNat_carried_low8 (v : Half) :
    BitVec.ofNat 16 (CommandWord.carried .low8 v) = slot8 (v.setWidth 8) := by
  apply BitVec.eq_of_toNat_eq
  simp [CommandWord.carried, slot8]

/-- The carried two bits, back in their slot. -/
@[simp] theorem ofNat_carried_low2 (v : Half) :
    BitVec.ofNat 16 (CommandWord.carried .low2 v) = slot2 (v.setWidth 2) := by
  apply BitVec.eq_of_toNat_eq
  simp [CommandWord.carried, slot2]

/-- An unused slot carries nothing. -/
@[simp] theorem ofNat_carried_unused (v : Half) : BitVec.ofNat 16 (CommandWord.carried .unused v) = 0 := rfl

/-- A slot whose ignored bits are zero carries all of itself. -/
theorem carried_of_slotWf {k : SlotKind} {v : Half} (h : CommandWord.slotWf k v = true) :
    CommandWord.carried k v = v.toNat := by
  cases k with
  | whole => rfl
  | low8 => exact Nat.mod_eq_of_lt (of_decide_eq_true h)
  | low2 => exact Nat.mod_eq_of_lt (of_decide_eq_true h)
  | unused => exact (eq_of_beq h).symm

/-! ### The assembler's word -/

/-- Slot `n` of a word with its ignored bits zero (spec/30_encoding.md R92, R93). -/
def keptSlot (cw : CommandWord) (n : Nat) : Half :=
  BitVec.ofNat 16 (CommandWord.carried (CommandWord.kindOf cw n) (CommandWord.slot cw n))

/-- A word with every ignored bit zero, as an assembler writes it (R93). -/
def assembled (cw : CommandWord) : CommandWord :=
  pack (CommandWord.op cw) (keptSlot cw 0) (keptSlot cw 1) (keptSlot cw 2) (keptSlot cw 3) (keptSlot cw 4)
    (keptSlot cw 5) (keptSlot cw 6)

/-- The opcode, the seven slots and `Z` are all the bits of a word (R91). -/
theorem word_ext {cw dw : CommandWord} (hop : CommandWord.op cw = CommandWord.op dw)
    (hslot : ∀ n < 7, CommandWord.slot cw n = CommandWord.slot dw n)
    (hz : CommandWord.z cw = CommandWord.z dw) : cw = dw := by
  apply BitVec.eq_of_getLsbD_eq
  intro k hk
  rcases Nat.lt_or_ge k 8 with hlow | hlow
  · have hbit := congrArg (fun v => v.getLsbD k) hz
    simpa [CommandWord.z, hlow] using hbit
  rcases Nat.lt_or_ge k 120 with hhigh | hhigh
  · have hbit := congrArg (fun v => v.getLsbD ((k - 8) % 16)) (hslot (6 - (k - 8) / 16) (by omega))
    have hpos : 104 - 16 * (6 - (k - 8) / 16) + (k - 8) % 16 = k := by omega
    simpa [CommandWord.slot, Nat.mod_lt, hpos] using hbit
  · have hbit := congrArg (fun v => v.getLsbD (k - 120)) hop
    have hpos : 120 + (k - 120) = k := by omega
    simpa [CommandWord.op, hpos, show k - 120 < 8 by omega] using hbit

/-- The check of an assembler's word, slot by slot. -/
theorem wf_iff (cw : CommandWord) : CommandWord.wf cw = true ↔
    CommandWord.kinds (CommandWord.op cw) ≠ none ∧
      (∀ n < 7, CommandWord.slotWf (CommandWord.kindOf cw n) (CommandWord.slot cw n) = true) ∧
      CommandWord.z cw = 0#8 := by
  cases hkinds : CommandWord.kinds (CommandWord.op cw) <;>
    simp [CommandWord.wf, CommandWord.kindOf, hkinds]

/-- A word whose ignored bits are zero is the assembler's. -/
theorem assembled_of_wf {cw : CommandWord} (h : CommandWord.wf cw = true) : assembled cw = cw := by
  obtain ⟨-, hslots, hz⟩ := (wf_iff cw).mp h
  have hkept : ∀ n < 7, keptSlot cw n = CommandWord.slot cw n := fun n hn => by
    rw [keptSlot, carried_of_slotWf (hslots n hn), BitVec.ofNat_toNat, BitVec.setWidth_eq]
  refine word_ext (by simp [assembled]) (fun n hn => ?_) (by simp [assembled, hz])
  rw [← hkept n hn]
  interval_cases n <;> simp [assembled]

/-- The assembler's word is made of the opcode and of what the slots carry. -/
theorem assembled_congr {cw dw : CommandWord} (hop : CommandWord.op cw = CommandWord.op dw)
    (hslots : ∀ n < 7, CommandWord.carried (CommandWord.kindOf cw n) (CommandWord.slot cw n) =
      CommandWord.carried (CommandWord.kindOf cw n) (CommandWord.slot dw n)) :
    assembled cw = assembled dw := by
  have hkept : ∀ n < 7, keptSlot cw n = keptSlot dw n := fun n hn => by
    rw [keptSlot, keptSlot, hslots n hn, CommandWord.kindOf, CommandWord.kindOf, hop]
  rw [assembled, assembled, hop, hkept 0 (by decide), hkept 1 (by decide), hkept 2 (by decide),
    hkept 3 (by decide), hkept 4 (by decide), hkept 5 (by decide), hkept 6 (by decide)]

/-! ### What a word decodes to -/

/-- What decoding answers, said once, by the opcode: an error for a reserved one, otherwise the command whose
word is the assembler's. -/
theorem decode_cases (cw : CommandWord) :
    (CommandWord.kinds (CommandWord.op cw) = none ∧
      decode cw = .error (.reservedOpcode (CommandWord.op cw))) ∨
    (CommandWord.kinds (CommandWord.op cw) ≠ none ∧ ∃ i, decode cw = .ok i ∧ encode i = assembled cw) := by
  unfold decode
  split
  case h_23 =>
    refine .inl ⟨?_, rfl⟩
    unfold CommandWord.kinds
    split
    case h_23 => rfl
    all_goals contradiction
  all_goals
    rename_i hvalue
    have hop := congrArg (BitVec.ofNat 8) hvalue
    rw [BitVec.ofNat_toNat, BitVec.setWidth_eq] at hop
    refine .inr ⟨by simp [CommandWord.kinds, hvalue], _, rfl, ?_⟩
    simp [assembled, keptSlot, CommandWord.kindOf, CommandWord.kinds, hop, encode, field16, field8, field2]

/-- A word with a reserved opcode decodes to no command. -/
theorem decode_reserved {cw : CommandWord} (h : CommandWord.kinds (CommandWord.op cw) = none) :
    decode cw = .error (.reservedOpcode (CommandWord.op cw)) := by
  rcases decode_cases cw with ⟨-, hdecode⟩ | ⟨hkinds, -⟩
  · exact hdecode
  · exact absurd h hkinds

/-- A word with an assigned opcode decodes to the command whose word is the assembler's. -/
theorem decode_assigned {cw : CommandWord} (h : CommandWord.kinds (CommandWord.op cw) ≠ none) :
    ∃ i, decode cw = .ok i ∧ encode i = assembled cw := by
  rcases decode_cases cw with ⟨hkinds, -⟩ | ⟨-, hdecode⟩
  · exact absurd hkinds h
  · exact hdecode

/-- Settles O2: an assembler's word has an assigned opcode and is its own assembled word. -/
theorem encodeOfDecodedAssemblerWord : Obligations.EncodeOfDecodedAssemblerWord := by
  intro cw hwf
  obtain ⟨i, hdecode, hencode⟩ := decode_assigned ((wf_iff cw).mp hwf).1
  exact ⟨i, hdecode, hencode.trans (assembled_of_wf hwf)⟩

/-- Two words with one opcode and the same carried values decode alike: the commands have the same word. -/
theorem decode_congr {cw dw : CommandWord} (hop : CommandWord.op cw = CommandWord.op dw)
    (hslots : ∀ n < 7, CommandWord.carried (CommandWord.kindOf cw n) (CommandWord.slot cw n) =
      CommandWord.carried (CommandWord.kindOf cw n) (CommandWord.slot dw n)) : decode cw = decode dw := by
  by_cases hkinds : CommandWord.kinds (CommandWord.op cw) = none
  · rw [decode_reserved hkinds, decode_reserved (hop ▸ hkinds), hop]
  · obtain ⟨i, hi, hiword⟩ := decode_assigned hkinds
    obtain ⟨j, hj, hjword⟩ := decode_assigned (hop ▸ hkinds)
    have hij : i = j := encode_injective (by rw [hiword, hjword, assembled_congr hop hslots])
    rw [hi, hj, hij]

/-- Settles O3: the acceptance of a word depends on what it decodes to alone. -/
theorem ignoredBitsHaveNoEffect : Obligations.IgnoredBitsHaveNoEffect := by
  intro cw dw hop hslots
  have hdecode := decode_congr hop hslots
  exact ⟨hdecode, fun s => by simp only [Machine.State.acceptCommand, hdecode]⟩

end Sys2Proof
end

section
/-! Settles O4, O5 and O6: example words, and what the step of a ready engine does with the word on its port. -/

namespace Sys2Proof.Machine

/-! ### Words of the spec -/

/-- Settles O4: each word is decoded by evaluation. -/
theorem decodesExampleWordsOfTheSpec : Obligations.DecodesExampleWordsOfTheSpec :=
  ⟨by decide, by decide, by decide, by decide, by decide, by decide⟩

/-! ### A reserved word -/

/-- The opcodes of the table leave 234 of the 256 reserved (spec/30_encoding.md R98). -/
theorem reserved_count :
    ((List.range 256).filter fun n => (CommandWord.kinds (BitVec.ofNat 8 n)).isNone).length = 234 := by
  decide +kernel

/-- Settles O5: of a reserved word nothing is left to run or to send. -/
theorem reservedWordCompletesAtOnce : Obligations.ReservedWordCompletesAtOnce := by
  refine ⟨reserved_count, fun s cw hidle hpending hport hheld hkinds => ?_⟩
  have hstep := step_ready_held s cw hidle hport hheld
  simp only [State.acceptCommand, decode_reserved hkinds] at hstep
  simpa [State.takeCommand, State.settleBusy, hpending, hidle] using hstep

/-! ### A command -/

/-- Every command completes. -/
theorem exec_next (i : Instr) (s : State) : ∃ t, exec i s = .next t := by
  cases i <;> exact ⟨_, rfl⟩

/-- The running command is not the command's own business: what it leaves is noted as it was. -/
theorem exec_running {i : Instr} {s t : State} (h : exec i s = .next t) : t.running = s.running := by
  rw [(exec_commandFrame h).others]

/-- The step of a ready engine whose port holds the word of a command. -/
theorem step_runs {s : State} {cw : CommandWord} {i : Instr} (hidle : s.busy = false)
    (hport : s.port = some cw) (hheld : s.holdsWord) (hdecode : decode cw = .ok i) :
    ∃ t, exec i { s with port := none, busy := true, running := some i } = .next t ∧
      step s = .next { t with
        busy := !t.pending.isEmpty
        running := if t.pending.isEmpty then none else some i } := by
  obtain ⟨t, hexec⟩ := exec_next i (s.takeCommand (some i))
  refine ⟨t, hexec, ?_⟩
  rw [step_ready_held s cw hidle hport hheld]
  simp only [State.acceptCommand, hdecode, hexec, settle, State.settleBusy, exec_running hexec,
    takeCommand_running]

/-! ### The word of the host's interface -/

/-- The word of a command, numbered as the opcode table numbers it (spec/30_encoding.md R90). -/
theorem tableWord_toNat (cw : CommandWord) : tableWord 128 cw.toNat = cw := by
  rw [tableWord, Nat.mod_eq_of_lt cw.isLt, BitVec.ofNat_toNat, BitVec.setWidth_eq]

/-- With the changes of the word dropped, the host holds the word it is given. -/
theorem withCommand_holdsWord (s : State) (cw : CommandWord) : (s.withCommand cw).holdsWord := by
  intro dw hchange
  have hkept := List.head?_dropWhile_not Input.isChange s.inputs
  rw [show s.inputs.dropWhile Input.isChange = (s.withCommand cw).inputs from rfl, hchange] at hkept
  exact absurd hkept Bool.noConfusion

/-- Settles O6: a word that the host holds, a word that it changes in the cycle of the acceptance, and the word of
the host's interface, which is held. -/
theorem stepRunsTheDecodedCommand : Obligations.StepRunsTheDecodedCommand := by
  refine ⟨fun s cw i => step_runs, fun s cw dw es hidle hport hinputs => ?_, fun s i => ?_⟩
  · refine ⟨s.sampledWord cw, fun heq => ?_, ?_⟩
    · simp [State.sampledWord, hinputs, heq]
    · rw [step_ready s cw hidle hport, State.sampled, hinputs]
  · rw [State.withFetchWord, tableWord_toNat]
    exact step_runs (s := s.withCommand (encode i)) rfl rfl (withCommand_holdsWord s _) (decodeOfEncode i)

end Sys2Proof.Machine
end

section
/-! Settles O7: what an event does to the port, to asset memory, to the registers and to the chunk buffer. -/

namespace Sys2Proof.Machine

/-- A write of asset memory leaves the port alone. -/
theorem writeAsset_port (s : State) (a : Half) (b : Byte) : (s.writeAsset a b).port = s.port := by
  rcases writeAsset_cases s a b with heq | ⟨i, -, -, -, heq⟩
  · rw [heq]
  · obtain ⟨kept, rs, buf, htear, -⟩ := tear_eq { s with amem := Memory.write s.amem a b } i
    rw [heq, htear]

/-- A transferred byte changes the sink and what is left of the transaction. -/
theorem transferByte_frame (s : State) :
    s.transferByte = { s with sink := s.transferByte.sink, transferred := s.transferByte.transferred } := by
  rcases transferByte_cases s with heq | ⟨u, us, b, -, -, heq⟩
  · rw [heq]
  · rw [heq]

/-- An accepted transaction changes the stream, the sink and what runs. -/
theorem acceptTransaction_frame (s : State) :
    s.acceptTransaction = { s with
      pending := s.acceptTransaction.pending
      transferred := s.acceptTransaction.transferred
      bus := s.acceptTransaction.bus
      sink := s.acceptTransaction.sink
      busy := s.acceptTransaction.busy
      running := s.acceptTransaction.running } := by
  rcases acceptTransaction_cases s with ⟨-, heq⟩ | ⟨u, us, -, heq⟩
  · rw [heq]
  · rw [heq]

/-- Only the host changes the word on the port. -/
theorem handle_port (s : State) {e : Input} (hpresent : ∀ dw, e ≠ .present dw)
    (hchange : ∀ dw, e ≠ .changeWord dw) : (s.handle e).port = s.port := by
  cases e with
  | present dw => exact absurd rfl (hpresent dw)
  | changeWord dw => exact absurd rfl (hchange dw)
  | readRegister | reset => rfl
  | assetWrite a b => exact writeAsset_port s a b
  | adapterTransfers => exact (congrArg State.port (transferByte_frame s) :)
  | adapterAccepts => exact (congrArg State.port (acceptTransaction_frame s) :)

/-- No event takes a word from the port: the host can only put another there. -/
theorem handle_port_isSome (s : State) (e : Input) (h : s.port.isSome = true) :
    (s.handle e).port.isSome = true := by
  cases e with
  | present | changeWord => rfl
  | assetWrite | readRegister | adapterTransfers | adapterAccepts | reset =>
    rw [handle_port s (by simp) (by simp)]; exact h

/-- Only a write of the host changes asset memory. -/
theorem handle_amem (s : State) {e : Input} (hwrite : ∀ a b, e ≠ .assetWrite a b) :
    (s.handle e).amem = s.amem := by
  cases e with
  | present | changeWord | readRegister | reset => rfl
  | assetWrite a b => exact absurd rfl (hwrite a b)
  | adapterTransfers => exact (congrArg State.amem (transferByte_frame s) :)
  | adapterAccepts => exact (congrArg State.amem (acceptTransaction_frame s) :)

/-- Only a write of asset memory and reset change what a command has done to the registers and the buffer. -/
theorem handle_regs_chunk (s : State) {e : Input} (hwrite : ∀ a b, e ≠ .assetWrite a b)
    (hreset : e ≠ .reset) : (s.handle e).regs = s.regs ∧ (s.handle e).chunk = s.chunk := by
  cases e with
  | present | changeWord | readRegister => exact ⟨rfl, rfl⟩
  | assetWrite a b => exact absurd rfl (hwrite a b)
  | adapterTransfers =>
    exact ⟨(congrArg State.regs (transferByte_frame s) :), (congrArg State.chunk (transferByte_frame s) :)⟩
  | adapterAccepts =>
    exact ⟨(congrArg State.regs (acceptTransaction_frame s) :),
      (congrArg State.chunk (acceptTransaction_frame s) :)⟩
  | reset => exact absurd rfl hreset

/-- Settles O7: a busy engine waits for one event, and nothing happens when there is none. -/
theorem heldWordWaitsWhileBusy : Obligations.HeldWordWaitsWhileBusy := by
  refine ⟨fun s cw es hwaiting hinputs => ?_, fun s t cw hbusy hport hstep => ?_⟩
  · rcases hinputs with hinputs | hinputs
    · exact step_event hwaiting hinputs
    · exact step_event hwaiting hinputs
  cases hinputs : s.inputs with
  | nil =>
    rw [step_waiting s (.inl hbusy), State.nextEvent, hinputs] at hstep
    cases hstep
    exact ⟨by rw [hport]; rfl, fun _ _ => hport, fun _ => ⟨rfl, fun _ => ⟨rfl, rfl⟩⟩⟩
  | cons e es =>
    rw [step_event (.inl hbusy) hinputs] at hstep
    cases hstep
    have hother : ∀ d : Input, (e :: es).head? ≠ some d → e ≠ d := fun d hd he => hd (congrArg some he)
    refine ⟨handle_port_isSome _ e (by rw [hport]; rfl), fun hpresent hheld => ?_,
      fun hwrite => ⟨?_, fun hreset => ?_⟩⟩
    · have hchange : ∀ dw, e ≠ .changeWord dw := fun dw => hother _ (hinputs ▸ hheld dw)
      exact (handle_port _ (fun dw => hother _ (hpresent dw)) hchange).trans hport
    · exact handle_amem _ fun a b => hother _ (hwrite a b)
    · exact handle_regs_chunk _ (fun a b => hother _ (hwrite a b)) (hother _ (hinputs ▸ hreset))

end Sys2Proof.Machine
end

section
/-! Settles O24 and O27: what SET_ROTATION does, and what clipping keeps of a rectangle. -/

namespace Sys2Proof.Machine

/-! ### SET_ROTATION -/

/-- The two sizes of a panel by the number of its rotation (spec/10_state.md R24). -/
theorem panelOf_eq (r : BitVec 2) : panelOf r =
    (if r.toNat = 0 ∨ r.toNat = 2 then 320 else 480, if r.toNat = 0 ∨ r.toNat = 2 then 480 else 320) := by
  have hnumber : (r = 0#2 ∨ r = 2#2) ↔ (r.toNat = 0 ∨ r.toNat = 2) := by simp [← BitVec.toNat_inj]
  unfold panelOf
  simp only [hnumber]
  split <;> rfl

/-- Settles O24: the size pair that the panel of a rotation has is the pair that the command writes. -/
theorem setRotationResult : Obligations.SetRotationResult := by
  intro r s
  have hexec : exec (.setRotation r) s = .next { s with
      regs := { s.regs with rotation := r, width := (panelOf r).1, height := (panelOf r).2 }
      pending := s.pending ++ [.cmd s.params.cmdMadctl, .d8 (s.params.madctl r)] } := rfl
  rw [hexec, panelOf_eq]

/-! ### Clipping -/

/-- A truncated extent is what remains of the panel, if that is less. -/
theorem truncate_eq_min (limit start extent : Nat) : truncate limit start extent = min extent (limit - start) := by
  unfold truncate
  split <;> omega

/-- Settles O27: a rectangle is kept when it passes the three skip tests, which is one condition. -/
theorem clipResult : Obligations.ClipResult := by
  intro width height x y w h
  unfold clip
  by_cases hkeep : 0 ≤ x ∧ x < width ∧ 0 ≤ y ∧ y < height ∧ 0 < w ∧ 0 < h
  · obtain ⟨hx, hwidth, hy, hheight, hw, hh⟩ := hkeep
    rw [if_neg (by omega), if_neg (by omega), if_neg (by omega), if_pos ⟨hx, hwidth, hy, hheight, hw, hh⟩,
      truncate_eq_min, truncate_eq_min]
  · rw [if_neg hkeep]
    split_ifs with horigin hbeyond hempty
    · rfl
    · rfl
    · rfl
    · omega

end Sys2Proof.Machine
end

section
/-! Settles O21: a drawing call emits nothing or one window with the pixels of its area. -/

namespace Sys2Proof.Machine

/-! ### The bursts of a command -/

/-- The window of a rectangle, with data. -/
def Rect.burst (q : Rect) (data : List Txn) : Burst := ⟨q.x, q.y, q.x + q.w - 1, q.y + q.h - 1, data⟩

/-- A drawing call emits the window of its area, then its colour once for each pixel. -/
theorem txns_of_area {s : State} {r : Request} {q : Rect} {c : Colour}
    (h : r.area s.panelWidth s.panelHeight = some (q, c)) :
    ∃ data, r.txns s = (q.burst data).txns s.params ∧ wire data = pixelBytes (q.w * q.h) c := by
  have hwindow : ∃ data, r.txns s = (q.burst data).txns s.params := by
    cases r with
    | pixel x y d =>
      simp only [Request.area, Option.ite_none_right_eq_some] at h
      obtain ⟨hon, heq⟩ := h
      cases heq
      exact ⟨[.d16 c], if_pos hon⟩
    | fill x y w v d =>
      simp only [Request.area, Option.map_eq_some_iff] at h
      obtain ⟨q', hclip, heq⟩ := h
      cases heq
      exact ⟨_, by simp only [Request.txns, hclip]; rfl⟩
  obtain ⟨data, hdata⟩ := hwindow
  have hwire := wire_txns_of_area h
  rw [hdata, Burst.txns, wire_append] at hwire
  exact ⟨data, hdata, List.append_cancel_left hwire⟩

/-- The pixels of a colour are data bytes. -/
theorem pixelBytes_tag {n : Nat} {c : Colour} {b : Tag × Byte} (hb : b ∈ pixelBytes n c) : b.1 = .d := by
  obtain ⟨bs, hbs, hmem⟩ := List.mem_flatten.mp hb
  rw [List.eq_of_mem_replicate hbs] at hmem
  simp only [List.mem_cons, List.not_mem_nil, or_false] at hmem
  rcases hmem with rfl | rfl <;> rfl

/-- A pixel is two bytes. -/
theorem pixelBytes_length (n : Nat) (c : Colour) : (pixelBytes n c).length = 2 * n := by
  simp [pixelBytes, Nat.mul_comm]

/-- The window of a rectangle of the panel, with a colour for each of its pixels, is as the sink requires it. -/
theorem burst_ok {width height : Nat} {q : Rect} {c : Colour} {data : List Txn} (hw : 0 < q.w) (hh : 0 < q.h)
    (hx : q.x + q.w ≤ width) (hy : q.y + q.h ≤ height) (hdata : wire data = pixelBytes (q.w * q.h) c) :
    (q.burst data).ok width height := by
  have hcolumns : q.x + q.w - 1 - q.x + 1 = q.w := by omega
  have hrows : q.y + q.h - 1 - q.y + 1 = q.h := by omega
  simp only [Burst.ok, Rect.burst, hdata, hcolumns, hrows]
  exact ⟨by omega, by omega, by omega, by omega, fun _ => pixelBytes_tag, pixelBytes_length _ c⟩

/-- A drawing call emits bursts on the panel, one or none. -/
theorem txns_bursts (s : State) (r : Request) : ∃ bs : List Burst,
    r.txns s = bs.flatMap (Burst.txns s.params) ∧ ∀ b ∈ bs, b.ok s.panelWidth s.panelHeight := by
  cases harea : r.area s.panelWidth s.panelHeight with
  | none => exact ⟨[], txns_of_area_none harea, nofun⟩
  | some qc =>
    obtain ⟨hw, hh, hx, hy⟩ := area_bounds harea
    obtain ⟨data, htxns, hdata⟩ := txns_of_area harea
    exact ⟨[qc.1.burst data], by simpa using htxns, by simpa using burst_ok hw hh hx hy hdata⟩

/-- Drawing calls emit bursts on the panel. -/
theorem calls_bursts (s : State) (rs : List Request) : ∃ bs : List Burst,
    rs.flatMap (Request.txns s) = bs.flatMap (Burst.txns s.params) ∧
      ∀ b ∈ bs, b.ok s.panelWidth s.panelHeight := by
  choose bursts htxns hok using txns_bursts s
  refine ⟨rs.flatMap bursts, ?_, ?_⟩
  · rw [List.flatMap_assoc]
    exact List.flatMap_congr fun r _ => htxns r
  · intro b hb
    obtain ⟨r, -, hbr⟩ := List.mem_flatMap.mp hb
    exact hok r b hbr

/-! ### A rectangle without a window -/

/-- A rectangle that begins at or beyond the right or the bottom edge is skipped. -/
theorem clip_beyond {width height : Nat} {x y : Int} (w h : Nat)
    (hbeyond : (width : Int) ≤ x ∨ (height : Int) ≤ y) :
    clip width height x y w h = none := by
  rw [clipResult]
  exact if_neg (by omega)

/-- A fill of a rectangle that is skipped does nothing. -/
theorem fill_of_clip_none {s : State} {x y : Int} {w h : Nat} (c : Colour)
    (hclip : clip s.panelWidth s.panelHeight x y w h = none) : s.fill x y w h c = s := by
  rw [State.fill, hclip]

/-- Settles O21: what a command other than SET_ROTATION emits are drawing calls, and each call's bursts lie on
the panel. -/
theorem everyWindowIsOnThePanel : Obligations.EveryWindowIsOnThePanel := by
  constructor
  · intro i s t hi hexec
    obtain ⟨rs, hpending⟩ := (exec_drawFrame hi hexec).pending
    obtain ⟨bs, hbursts, hok⟩ := calls_bursts s rs
    exact ⟨bs, by rw [hpending, hbursts], hok⟩
  · intro x y w h c s hbeyond
    exact congrArg Host.Outcome.next (fill_of_clip_none c (clip_beyond _ _ hbeyond))

end Sys2Proof.Machine
end

section
/-! Settles O28 and O29: what a pixel and a fill put on the wire. -/

namespace Sys2Proof.Machine

/-! ### A window's bytes -/

/-- The high byte of a bus field (spec/00_scope.md R17, spec/20_memory.md R58). -/
theorem low16_high (v : Nat) : (low16 v).extractLsb' 8 8 = BitVec.ofNat 8 (v / 256) := by
  have hbit (i : Nat) : (v / 256).testBit i = v.testBit (8 + i) := by
    rw [show 256 = 2 ^ 8 from rfl, Nat.testBit_div_two_pow, Nat.add_comm]
  apply BitVec.eq_of_getLsbD_eq
  intro i hi
  simp only [low16, BitVec.getLsbD_extractLsb', BitVec.getLsbD_ofNat, hbit]
  grind

/-- The low byte of a bus field. -/
theorem low16_low (v : Nat) : (low16 v).extractLsb' 0 8 = BitVec.ofNat 8 v := by
  apply BitVec.eq_of_getLsbD_eq
  intro i hi
  simp only [low16, BitVec.getLsbD_extractLsb', BitVec.getLsbD_ofNat]
  grind

/-- The two bounds of a window on the wire: the low bound, then the high one, high byte first. -/
theorem flat_bounds (lo hi : Nat) : flat (.d32 (bounds lo hi)) =
    [(.d, BitVec.ofNat 8 (lo / 256)), (.d, BitVec.ofNat 8 lo),
      (.d, BitVec.ofNat 8 (hi / 256)), (.d, BitVec.ofNat 8 hi)] := by
  have hlow (start : Nat) (h : 16 ≤ start ∧ start ≤ 24) :
      (bounds lo hi).extractLsb' start 8 = (low16 lo).extractLsb' (start - 16) 8 := by
    apply BitVec.eq_of_getLsbD_eq
    intro i hi
    simp only [bounds, BitVec.getLsbD_append, BitVec.getLsbD_extractLsb']
    grind
  have hhigh (start : Nat) (h : start ≤ 8) :
      (bounds lo hi).extractLsb' start 8 = (low16 hi).extractLsb' start 8 := by
    apply BitVec.eq_of_getLsbD_eq
    intro i hi
    simp only [bounds, BitVec.getLsbD_append, BitVec.getLsbD_extractLsb']
    grind
  rw [flat, hlow 24 (by decide), hlow 16 (by decide), hhigh 8 (by decide), hhigh 0 (by decide)]
  simp only [Nat.reduceSub, low16_high, low16_low]

/-- A window on the wire: 11 bytes (spec/40_addressing_clipping.md R124). -/
theorem wire_window (p : Params) (x0 y0 x1 y1 : Nat) : wire (window p x0 y0 x1 y1) =
    [(.c, p.cmdCaset), (.d, BitVec.ofNat 8 (x0 / 256)), (.d, BitVec.ofNat 8 x0),
      (.d, BitVec.ofNat 8 (x1 / 256)), (.d, BitVec.ofNat 8 x1),
      (.c, p.cmdPaset), (.d, BitVec.ofNat 8 (y0 / 256)), (.d, BitVec.ofNat 8 y0),
      (.d, BitVec.ofNat 8 (y1 / 256)), (.d, BitVec.ofNat 8 y1), (.c, p.cmdRamwr)] := by
  rw [wire, window]
  simp only [List.flatMap_cons, List.flatMap_nil, flat_bounds]
  rfl

/-! ### DRAW_PIXEL -/

/-- The window of a single column or row that is not negative: both bounds are the operand itself. -/
theorem bounds_of_nonneg {x : Half} (h : 0 ≤ x.toInt) : bounds x.toInt.toNat x.toInt.toNat = x ++ x := by
  have hx : low16 x.toInt.toNat = x := by
    have hnat : x.toInt.toNat = x.toNat := by
      have := BitVec.toInt_eq_toNat_cond x
      have := x.isLt
      split at * <;> omega
    rw [low16, hnat, BitVec.ofNat_toNat, BitVec.setWidth_eq]
  rw [bounds, hx]

/-- A position is on the panel when both coordinates are in range. -/
theorem onPanel_iff (width height : Nat) (x y : Int) :
    onPanel width height x y = true ↔ 0 ≤ x ∧ x < width ∧ 0 ≤ y ∧ y < height := by
  simp [onPanel, and_assoc]

/-- Settles O28: on the panel a window of one column and one row, off it nothing. -/
theorem drawPixelResult : Obligations.DrawPixelResult := by
  intro x y c s
  have hexec : exec (.drawPixel x y c) s = .next (s.pixel x.toInt y.toInt c) := rfl
  have hpanel := onPanel_iff s.panelWidth s.panelHeight x.toInt y.toInt
  rw [hexec, State.pixel]
  constructor
  · intro hon
    have honPanel := hpanel.mpr hon
    obtain ⟨hx, -, hy, -⟩ := hon
    rw [if_pos honPanel, window, bounds_of_nonneg hx, bounds_of_nonneg hy]
    rfl
  · intro hoff
    rw [if_neg (mt hpanel.mp hoff)]

/-! ### FILL_RECT -/

/-- The whole chunks, and one more for a remainder: as many transactions as chunks cover the total. -/
theorem chunks_length (buffer : List Byte) {size : Nat} (total : Nat) (hsize : 0 < size) :
    (chunks buffer size total).length = (total + size - 1) / size := by
  have hrest : (if total % size > 0 then [Txn.buf (buffer.take (total % size))] else []).length =
      (total % size + size - 1) / size := by
    have hlt := Nat.mod_lt total hsize
    split
    · rw [Nat.div_eq_of_lt_le (k := 1) (by omega) (by omega)]; rfl
    · rw [Nat.div_eq_of_lt (by omega)]; rfl
  have hsplit : total + size - 1 = total % size + size - 1 + total / size * size := by
    have := Nat.mod_add_div' total size
    omega
  rw [chunks, List.length_append, List.length_replicate, hrest, hsplit, Nat.add_mul_div_right _ _ hsize,
    Nat.add_comm]

/-- A fill whose rectangle is not skipped, in full. -/
theorem fill_of_clip_some {s : State} {x y : Int} {w h : Nat} {q : Rect} (c : Colour)
    (hclip : clip s.panelWidth s.panelHeight x y w h = some q) :
    s.fill x y w h c = { s with
      pending := s.pending ++ (Request.fill x y w h c).txns s
      chunk := pattern (s.params.chunkPairs + 1) c } := by
  have hdraw := draw_eq s (.fill x y w h c)
  simp only [Request.buffer, hclip] at hdraw
  exact hdraw

/-- The transactions of a fill: five of the window, then the chunks. -/
theorem txns_fill_length {s : State} {x y : Int} {w h : Nat} {q : Rect} (c : Colour)
    (hclip : clip s.panelWidth s.panelHeight x y w h = some q) :
    ((Request.fill x y w h c).txns s).length =
      5 + (q.w * q.h * 2 + s.params.chunkBytes - 1) / s.params.chunkBytes := by
  have hsize : 0 < s.params.chunkBytes := by simp [Params.chunkBytes]
  simp only [Request.txns, hclip, List.length_append, chunks_length _ _ hsize]
  rfl

/-- The wire trace of a fill: the bytes of its window, then its pixels. -/
theorem wire_txns_fill {s : State} {x y : Int} {w h : Nat} {q : Rect} (c : Colour)
    (hclip : clip s.panelWidth s.panelHeight x y w h = some q) :
    wire ((Request.fill x y w h c).txns s) =
      wire (window s.params q.x q.y (q.x + q.w - 1) (q.y + q.h - 1)) ++ pixelBytes (q.w * q.h) c :=
  wire_txns_of_area (by simp [Request.area, hclip])

/-- Settles O29: the wire trace, its length and the number of transactions are those of the window and of the
chunks. -/
theorem fillRectOnTheWire : Obligations.FillRectOnTheWire := by
  intro x y w h c s
  refine ⟨fun hclip => congrArg Host.Outcome.next (fill_of_clip_none c hclip), fun q hclip => ?_⟩
  have hexec : exec (.fillRect x y w h c) s = .next (s.fill x.toInt y.toInt w.toNat h.toNat c) := rfl
  have hwire := wire_txns_fill c hclip
  rw [wire_window] at hwire
  refine ⟨_, hexec, ?_⟩
  rw [fill_of_clip_some c hclip]
  refine ⟨rfl, List.prefix_append _ _, ?_, ?_, ?_⟩
  · rw [wire_append, hwire, List.append_assoc]
  · rw [List.length_append, txns_fill_length c hclip, Nat.add_assoc]
  · rw [wire_append, hwire]
    simp only [List.length_append, List.length_cons, List.length_nil, pixelBytes_length]
    omega

end Sys2Proof.Machine
end

section
/-! Settles O30, O31 and O32: the calls of a line, by its direction, and of a rectangle's outline. -/

namespace Sys2Proof.Machine

/-! ### Lines along an axis, and rectangles -/

/-- A vertical line or a single point is one fill (spec/41_primitives.md R144). -/
theorem line_vertical (x y0 y1 : Int) (c : Colour) :
    line x y0 x y1 c = [.fill x (min y0 y1) 1 ((y1 - y0).natAbs + 1) c] := if_pos rfl

/-- A horizontal line is one fill (R144). -/
theorem line_horizontal {x0 x1 : Int} (y : Int) (c : Colour) (hx : x0 ≠ x1) :
    line x0 y x1 y c = [.fill (min x0 x1) y ((x1 - x0).natAbs + 1) 1 c] := by
  rw [line, if_neg hx, if_pos rfl]

/-- A line along neither axis is sloped (R144). -/
theorem line_sloped {x0 y0 x1 y1 : Int} (c : Colour) (hx : x0 ≠ x1) (hy : y0 ≠ y1) :
    line x0 y0 x1 y1 c = slopedLine (Segment.mk x0 y0 x1 y1).steep (Segment.mk x0 y0 x1 y1).majorForm c := by
  rw [line, if_neg hx, if_neg hy]

/-- A horizontal side of a rectangle is one fill of its length, a side of one pixel among them (R148). -/
theorem line_rightwards (x y : Int) {w : Nat} (c : Colour) (hw : 0 < w) :
    line x y (x + w - 1) y c = [.fill x y w 1 c] := by
  by_cases hone : w = 1
  · have hx : x + w - 1 = x := by omega
    rw [hx, line_vertical, hone, min_self, sub_self]
    rfl
  · have hmin : min x (x + w - 1) = x := by omega
    have hlength : (x + w - 1 - x).natAbs + 1 = w := by omega
    rw [line_horizontal y c (by omega), hmin, hlength]

/-- A vertical side of a rectangle is one fill of its length (R148). -/
theorem line_downwards (x y : Int) {h : Nat} (c : Colour) (hh : 0 < h) :
    line x y x (y + h - 1) c = [.fill x y 1 h c] := by
  have hmin : min y (y + h - 1) = y := by omega
  have hlength : (y + h - 1 - y).natAbs + 1 = h := by omega
  rw [line_vertical, hmin, hlength]

/-- The outline of a rectangle is four fills: top, bottom, left, right (R148). -/
theorem rectOutline_eq (x y : Int) {w h : Nat} (c : Colour) (hw : 0 < w) (hh : 0 < h) :
    rectOutline x y w h c = [.fill x y w 1 c, .fill x (y + h - 1) w 1 c, .fill x y 1 h c,
      .fill (x + w - 1) y 1 h c] := by
  rw [rectOutline, if_neg (by omega), line_rightwards x y c hw, line_rightwards x _ c hw,
    line_downwards x y c hh, line_downwards _ y c hh]
  rfl

/-- Settles O30: an empty rectangle has no calls, any other the four fills of its outline. -/
theorem drawRectIsFourFills : Obligations.DrawRectIsFourFills := by
  intro x y w h c s
  have hexec : exec (.drawRect x y w h c) s =
      .next (s.drawAll (rectOutline x.toInt y.toInt w.toNat h.toNat c)) := rfl
  rw [hexec]
  split
  · rename_i hempty
    rw [rectOutline, if_pos hempty]
    rfl
  · rename_i hne
    rw [rectOutline_eq _ _ c (by omega) (by omega)]
    rfl

/-! ### Both directions of a line -/

/-- Swapping the endpoints keeps the slope. -/
theorem steep_reverse (g : Segment) : g.reverse.steep = g.steep := by
  refine decide_eq_decide.mpr ?_
  simp only [Segment.reverse]
  omega

/-- Ordering the endpoints by x forgets which one came first, if they differ in x. -/
theorem ordered_reverse (g : Segment) (hx : g.x0 ≠ g.x1) :
    (if g.reverse.x0 > g.reverse.x1 then g.reverse.reverse else g.reverse) =
      if g.x0 > g.x1 then g.reverse else g := by
  change (if g.x1 > g.x0 then g else g.reverse) = if g.x0 > g.x1 then g.reverse else g
  rcases lt_or_gt_of_ne hx with hlt | hgt
  · rw [if_pos hlt, if_neg (by omega)]
  · rw [if_neg (by omega), if_pos hgt]

/-- Both directions of a sloped segment have the same major form (R145 (c)). -/
theorem majorForm_reverse (g : Segment) (hx : g.x0 ≠ g.x1) (hy : g.y0 ≠ g.y1) :
    g.reverse.majorForm = g.majorForm := by
  unfold Segment.majorForm
  rw [steep_reverse]
  cases g.steep with
  | true => exact ordered_reverse g.transpose hy
  | false => exact ordered_reverse g hx

/-- A line has the same calls in both directions (R145 (c)). -/
theorem line_symm (x0 y0 x1 y1 : Int) (c : Colour) : line x0 y0 x1 y1 c = line x1 y1 x0 y0 c := by
  by_cases hx : x0 = x1
  · subst hx
    rw [line_vertical, line_vertical, min_comm, ← Int.natAbs_neg, neg_sub]
  by_cases hy : y0 = y1
  · subst hy
    rw [line_horizontal _ c hx, line_horizontal _ c (Ne.symm hx), min_comm, ← Int.natAbs_neg, neg_sub]
  · have hsteep := steep_reverse ⟨x0, y0, x1, y1⟩
    have hmajor := majorForm_reverse ⟨x0, y0, x1, y1⟩ hx hy
    rw [line_sloped c hx hy, line_sloped c (Ne.symm hx) (Ne.symm hy), ← hsteep, ← hmajor]
    rfl

/-- Settles O31: the calls are the same in both directions. -/
theorem drawLineIsSymmetric : Obligations.DrawLineIsSymmetric := fun x0 y0 x1 y1 c s =>
  congrArg (fun rs => Host.Outcome.next (s.drawAll rs)) (line_symm x0.toInt y0.toInt x1.toInt y1.toInt c)

/-! ### The points of a sloped line -/

/-- How far the minor coordinate has moved after `n` steps of the Bresenham loop that starts with the error
term `err`: ceil((n * dy - err) / dx). -/
def minorSteps (dx dy err : Int) (n : Nat) : Int := (n * dy - err + dx - 1) / dx

/-- Before the first step nothing has moved. -/
theorem minorSteps_zero (dx dy err : Int) (herr : 0 ≤ err) (hlt : err < dx) : minorSteps dx dy err 0 = 0 := by
  rw [minorSteps]
  exact Int.ediv_eq_zero_of_lt (by simp; omega) (by simp; omega)

/-- A first step that keeps the minor coordinate. -/
theorem minorSteps_succ_keep (dx dy err : Int) (n : Nat) :
    minorSteps dx dy err (n + 1) = minorSteps dx dy (err - dy) n := by
  simp only [minorSteps]
  congr 1
  push_cast
  ring

/-- A first step that moves the minor coordinate. -/
theorem minorSteps_succ_move (dx dy err : Int) (n : Nat) (hdx : 0 < dx) :
    minorSteps dx dy err (n + 1) = 1 + minorSteps dx dy (err - dy + dx) n := by
  have hsplit : ((n + 1 : Nat) : Int) * dy - err + dx - 1 = n * dy - (err - dy + dx) + dx - 1 + 1 * dx := by
    push_cast
    ring
  rw [minorSteps, hsplit, Int.add_mul_ediv_right _ _ hdx.ne', minorSteps, add_comm]

/-- The Bresenham loop in closed form, the error term being in its range: by induction on the number of points,
each step bringing the error term back into its range (R144). -/
theorem bresenham_eq (steep : Bool) {dx dy : Int} (ystep : Int) (c : Colour) (hdy : 0 ≤ dy) (hslope : dy ≤ dx)
    (n : Nat) : ∀ x y err : Int, 0 ≤ err → err < dx →
      bresenham steep dx dy ystep c n x y err =
        (List.range n).map fun (k : Nat) => plot steep (x + k) (y + ystep * minorSteps dx dy err k) c := by
  induction n with
  | zero => intro x y err _ _; rfl
  | succ n ih =>
    intro x y err herr hlt
    have hnext (k : Nat) : x + ((k + 1 : Nat) : Int) = x + 1 + k := by push_cast; ring
    rw [bresenham, List.range_succ_eq_map, List.map_cons, List.map_map, minorSteps_zero dx dy err herr hlt]
    congr 1
    · simp
    split
    · rw [ih _ _ _ (by omega) (by omega)]
      refine List.map_congr_left fun k _ => ?_
      simp only [Function.comp, Nat.succ_eq_add_one, hnext, minorSteps_succ_move dx dy err k (by omega)]
      rw [mul_add, mul_one, ← add_assoc y]
    · rw [ih _ _ _ (by omega) (by omega)]
      refine List.map_congr_left fun k _ => ?_
      simp only [Function.comp, Nat.succ_eq_add_one, hnext, minorSteps_succ_keep]

/-- The points of a segment in its major form: one for each value of x (R144). -/
theorem slopedLine_eq (steep : Bool) (g : Segment) (c : Colour) (hx : g.x0 < g.x1)
    (hslope : |g.y1 - g.y0| ≤ g.x1 - g.x0) :
    slopedLine steep g c = (List.range ((g.x1 - g.x0).toNat + 1)).map fun (n : Nat) =>
      plot steep (g.x0 + n) (g.y0 + (if g.y0 < g.y1 then 1 else -1) *
        minorSteps (g.x1 - g.x0) |g.y1 - g.y0| ((g.x1 - g.x0) / 2) n) c := by
  rw [slopedLine, Int.natCast_natAbs]
  exact bresenham_eq steep _ c (abs_nonneg _) hslope _ _ _ _ (by omega) (by omega)

/-- A segment that is not steep and goes rightwards is its own major form. -/
theorem majorForm_flat {g : Segment} (hx : g.x0 < g.x1) (hflat : g.steep = false) : g.majorForm = g := by
  have horder : ¬g.x0 > g.x1 := by omega
  simp [Segment.majorForm, hflat, horder]

/-- The major form of a steep segment that goes downwards has the axis roles swapped. -/
theorem majorForm_steep {g : Segment} (hy : g.y0 < g.y1) (hsteep : g.steep = true) :
    g.majorForm = g.transpose := by
  have horder : ¬g.transpose.x0 > g.transpose.x1 := by simp only [Segment.transpose]; omega
  simp [Segment.majorForm, hsteep, horder]

/-- A line that is not steep, rightwards: one pixel for each column. -/
theorem line_flat {x0 y0 x1 y1 : Int} (c : Colour) (hx : x0 < x1) (hy : y0 ≠ y1)
    (hslope : |y1 - y0| ≤ x1 - x0) :
    line x0 y0 x1 y1 c = (List.range ((x1 - x0).toNat + 1)).map fun (n : Nat) =>
      .pixel (x0 + n) (y0 + (if y0 < y1 then 1 else -1) * minorSteps (x1 - x0) |y1 - y0| ((x1 - x0) / 2) n) c := by
  have hflat : (Segment.mk x0 y0 x1 y1).steep = false := by
    rw [Int.abs_eq_natAbs] at hslope
    simp only [Segment.steep, decide_eq_false_iff_not]
    omega
  rw [line_sloped c hx.ne hy, hflat, majorForm_flat hx hflat, slopedLine_eq false _ c hx hslope]
  rfl

/-- A steep line, downwards: one pixel for each row. -/
theorem line_steep {x0 y0 x1 y1 : Int} (c : Colour) (hy : y0 < y1) (hx : x0 ≠ x1)
    (hslope : |x1 - x0| < y1 - y0) :
    line x0 y0 x1 y1 c = (List.range ((y1 - y0).toNat + 1)).map fun (n : Nat) =>
      .pixel (x0 + (if x0 < x1 then 1 else -1) * minorSteps (y1 - y0) |x1 - x0| ((y1 - y0) / 2) n) (y0 + n) c := by
  have hsteep : (Segment.mk x0 y0 x1 y1).steep = true := by
    rw [Int.abs_eq_natAbs] at hslope
    simp only [Segment.steep, decide_eq_true_eq]
    omega
  rw [line_sloped c hx hy.ne, hsteep, majorForm_steep hy hsteep, slopedLine_eq true _ c hy hslope.le]
  rfl

/-- Settles O32: one closed form of the calls for each direction of the line. -/
theorem drawLineResult : Obligations.DrawLineResult := by
  intro x0 y0 x1 y1 c s
  have hexec : exec (.drawLine x0 y0 x1 y1 c) s =
      .next (s.drawAll (line x0.toInt y0.toInt x1.toInt y1.toInt c)) := rfl
  have hne {a b : Half} (hab : a ≠ b) : a.toInt ≠ b.toInt := mt BitVec.toInt_inj.mp hab
  rw [hexec]
  refine ⟨fun hx => ?_, fun hx hy => ?_, fun hx hy hslope => ?_, fun hy hx hslope => ?_⟩
  · rw [hx, line_vertical]
    rfl
  · rw [hy, line_horizontal _ c (hne hx)]
    rfl
  · rw [line_flat c hx (hne hy) hslope]
    rfl
  · rw [line_steep c hy (hne hx) hslope]
    rfl

end Sys2Proof.Machine
end

section
/-! Settles O34, O35, O36 and O33: the midpoint iteration, the loop of the circle commands over it, and the calls
that they make. -/

namespace Sys2Proof.Machine

/-! ### The midpoint iteration -/

/-- One step moves x by 1, and y by -1 exactly if the decision variable is at least 0 (R152). -/
theorem midpoint_step_eq (m : Midpoint) : m.step =
    if 0 ≤ m.f then ⟨m.f + (m.ddy + 2) + (m.ddx + 2), m.ddx + 2, m.ddy + 2, m.x + 1, m.y - 1⟩
    else ⟨m.f + (m.ddx + 2), m.ddx + 2, m.ddy, m.x + 1, m.y⟩ := by
  unfold Midpoint.step Midpoint.stepY Midpoint.stepX
  split <;> rfl

/-- One step moves x by 1. -/
theorem midpoint_step_x (m : Midpoint) : m.step.x = m.x + 1 := by
  rw [midpoint_step_eq]
  split <;> rfl

/-- One step lowers y by 1 exactly if the decision variable is at least 0. -/
theorem midpoint_step_y (m : Midpoint) : m.step.y = if 0 ≤ m.f then m.y - 1 else m.y := by
  rw [midpoint_step_eq]
  split <;> rfl

/-- The midpoint iteration from radius `r` after `n` steps. -/
def midpointAt (r n : Nat) : Midpoint := Midpoint.step^[n] (Midpoint.init r)

/-- No step yet. -/
@[simp] theorem midpointAt_zero (r : Nat) : midpointAt r 0 = Midpoint.init r := rfl

/-- One step more. -/
theorem midpointAt_succ (r n : Nat) : midpointAt r (n + 1) = (midpointAt r n).step :=
  Function.iterate_succ_apply' _ n _

/-- What holds of the iteration from radius `r` after `n` steps, y being free (R152). -/
structure MidpointInv (r n : Nat) (m : Midpoint) : Prop where
  x : m.x = n
  ddx : m.ddx = 2 * n + 1
  ddy : m.ddy = -2 * m.y
  f : m.f = ((n : Int) + 1) ^ 2 + m.y ^ 2 - m.y - (r : Int) ^ 2

/-- The iteration starts within the closed form. -/
theorem midpointInv_init (r : Nat) : MidpointInv r 0 (Midpoint.init r) where
  x := rfl
  ddx := rfl
  ddy := rfl
  f := by simp only [Midpoint.init]; push_cast; ring

/-- One step keeps the closed form: lowering y adds 2 - 2 y to the decision variable, and moving x adds 2 x + 3. -/
theorem midpointInv_step {r n : Nat} {m : Midpoint} (h : MidpointInv r n m) : MidpointInv r (n + 1) m.step := by
  obtain ⟨hx, hddx, hddy, hf⟩ := h
  rw [midpoint_step_eq]
  split
  · refine ⟨by simp [hx], by simp only [hddx]; omega, by simp only [hddy]; omega, ?_⟩
    simp only [hf, hddx, hddy]
    push_cast
    ring
  · refine ⟨by simp [hx], by simp only [hddx]; omega, hddy, ?_⟩
    simp only [hf, hddx]
    push_cast
    ring

/-- The closed form holds after every number of steps. -/
theorem midpointInv_at (r n : Nat) : MidpointInv r n (midpointAt r n) := by
  induction n with
  | zero => exact midpointInv_init r
  | succ n ih => rw [midpointAt_succ]; exact midpointInv_step ih

/-- Settles O34: the decision variable's closed form turns its sign into a comparison with r². -/
theorem midpointClosedForm : Obligations.MidpointClosedForm := by
  intro r n
  obtain ⟨hx, hddx, hddy, hf⟩ := midpointInv_at r n
  refine ⟨rfl, ?_, hx, hddx, hddy, hf⟩
  have hstep := midpoint_step_y (midpointAt r n)
  rw [← midpointAt_succ, hf] at hstep
  simp only [sub_nonneg] at hstep
  exact hstep

/-! ### How far the iteration goes -/

/-- y never grows, and falls by at most 1 in a step. -/
theorem midpointAt_y_succ (r n : Nat) :
    (midpointAt r (n + 1)).y ≤ (midpointAt r n).y ∧ (midpointAt r n).y ≤ (midpointAt r (n + 1)).y + 1 := by
  rw [midpointAt_succ, midpoint_step_y]
  split <;> omega

/-- y is never above the radius. -/
theorem midpointAt_y_le (r n : Nat) : (midpointAt r n).y ≤ r := by
  induction n with
  | zero => exact le_refl _
  | succ n ih => exact (midpointAt_y_succ r n).1.trans ih

/-- The iteration has reached the diagonal after some number of steps, at most the radius: x is then r. -/
theorem midpoint_reaches_diagonal (r : Nat) : ∃ n, (midpointAt r n).y ≤ (midpointAt r n).x :=
  ⟨r, by rw [(midpointInv_at r r).x]; exact midpointAt_y_le r r⟩

/-- The number of steps that the loop of a circle runs: the first after which y is at most x. -/
def circleLength (r : Nat) : Nat := Nat.find (midpoint_reaches_diagonal r)

/-- After the loop y is at most x. -/
theorem circleLength_end (r : Nat) : (midpointAt r (circleLength r)).y ≤ (midpointAt r (circleLength r)).x :=
  Nat.find_spec (midpoint_reaches_diagonal r)

/-- At each step of the loop x is less than y. -/
theorem circleLength_before {r n : Nat} (hn : n < circleLength r) : (midpointAt r n).x < (midpointAt r n).y :=
  not_le.mp (Nat.find_min (midpoint_reaches_diagonal r) hn)

/-- The loop has at most r steps (R154). -/
theorem circleLength_le (r : Nat) : circleLength r ≤ r :=
  Nat.find_min' _ (by rw [(midpointInv_at r r).x]; exact midpointAt_y_le r r)

/-- While x < y the decision variable is at most 2 x: a step that keeps y adds 2 x + 3 to a negative value, and one
that lowers it adds 2 (x - y) + 5, which is not positive when it ends with x < y. -/
theorem midpointAt_f_le (r n : Nat) (hn : (n : Int) < (midpointAt r n).y) : (midpointAt r n).f ≤ 2 * n := by
  induction n with
  | zero =>
    simp only [midpointAt_zero, Midpoint.init] at hn ⊢
    omega
  | succ n ih =>
    obtain ⟨-, hddx, hddy, -⟩ := midpointInv_at r n
    rw [midpointAt_succ, midpoint_step_eq] at hn ⊢
    split at hn
    · rename_i hf
      simp only [hf, if_true, hddx, hddy] at hn ⊢
      have hprev := ih (by omega)
      omega
    · rename_i hf
      simp only [hf, if_false, hddx] at hn ⊢
      omega

/-- While x < y, x is below r / √2: twice its square is below r² (R154). -/
theorem two_mul_sq_lt {r n : Nat} (hn : (n : Int) < (midpointAt r n).y) : 2 * n ^ 2 < r ^ 2 := by
  have hf := midpointAt_f_le r n hn
  rw [(midpointInv_at r n).f] at hf
  zify
  nlinarith

/-- For a 16-bit radius the loop has at most 46341 steps (R154). -/
theorem circleLength_le_of_half {r : Nat} (hr : r ≤ 65535) : circleLength r ≤ 46341 := by
  by_contra hlong
  have hbelow := circleLength_before (r := r) (n := 46341) (by omega)
  rw [(midpointInv_at r 46341).x] at hbelow
  have hsq := two_mul_sq_lt hbelow
  have hmax : r ^ 2 ≤ 65535 ^ 2 := Nat.pow_le_pow_left hr 2
  omega

/-! ### The loop -/

/-- The point of an iteration state. -/
def Midpoint.point (m : Midpoint) : Int × Int := (m.x, m.y)

/-- The loop runs while x < y: `n` steps, if its bound allows them (R152). -/
theorem circleSteps_eq_range (n : Nat) : ∀ (fuel : Nat) (m : Midpoint), n ≤ fuel →
    (∀ k < n, (Midpoint.step^[k] m).x < (Midpoint.step^[k] m).y) →
    (Midpoint.step^[n] m).y ≤ (Midpoint.step^[n] m).x →
    circleSteps fuel m = (List.range n).map fun k => (Midpoint.step^[k + 1] m).point := by
  induction n with
  | zero =>
    intro fuel m _ _ hend
    cases fuel with
    | zero => rfl
    | succ fuel => exact if_neg (not_lt.mpr hend)
  | succ n ih =>
    intro fuel m hfuel hbefore hend
    obtain ⟨fuel, rfl⟩ := Nat.exists_eq_add_one_of_ne_zero (n := fuel) (by omega)
    have hfirst : m.x < m.y := hbefore 0 (Nat.succ_pos n)
    rw [circleSteps, if_pos hfirst, List.range_succ_eq_map, List.map_cons, List.map_map,
      ih fuel m.step (by omega) (fun k hk => hbefore (k + 1) (by omega)) hend]
    rfl

/-- The points of a circle's loop, whatever its bound, if that is at least the radius. -/
theorem circleSteps_init {r fuel : Nat} (hfuel : r ≤ fuel) : circleSteps fuel (Midpoint.init r) =
    (List.range (circleLength r)).map fun n => (midpointAt r (n + 1)).point :=
  circleSteps_eq_range _ fuel _ ((circleLength_le r).trans hfuel) (fun _ => circleLength_before)
    (circleLength_end r)

/-- Settles O35: each clause is about the list of the points after steps 1 to `circleLength r`. -/
theorem circleLoopTerminates : Obligations.CircleLoopTerminates := by
  refine ⟨fun r n hn => ?_, fun r => ?_, fun r p hp => ?_, fun r hr => ?_⟩
  · rw [circleSteps_init hn, circleSteps_init le_rfl]
  · exact ⟨circleLength r, circleLength_le r, fun n => circleLength_before, circleLength_end r,
      circleSteps_init le_rfl⟩
  · have hend := circleLength_end r
    rw [circleSteps_init le_rfl] at hp
    cases hlength : circleLength r with
    | zero => simp [hlength] at hp
    | succ n =>
      rw [hlength] at hp hend
      simp only [List.range_succ, List.map_append, List.map_cons, List.map_nil, List.getLast?_concat,
        Option.some.injEq] at hp
      subst hp
      exact hend
  · rw [circleSteps_init le_rfl, List.length_map, List.length_range]
    exact circleLength_le_of_half hr

/-! ### The filled circle covers the outline -/

/-- Both coordinates of the loop's points are at least 0: a step starts with y above x. -/
theorem circleSteps_nonneg {r : Nat} {p : Int × Int} (hp : p ∈ circleSteps r (Midpoint.init r)) :
    0 ≤ p.1 ∧ 0 ≤ p.2 := by
  rw [circleSteps_init le_rfl, List.mem_map] at hp
  obtain ⟨n, hn, rfl⟩ := hp
  have hbefore := circleLength_before (List.mem_range.mp hn)
  have hfall := (midpointAt_y_succ r n).2
  rw [(midpointInv_at r n).x] at hbefore
  simp only [Midpoint.point, (midpointInv_at r (n + 1)).x]
  omega

/-- The first step from a radius of at least 2 keeps y, and from radius 1 it lowers y to 0: either way the
column x0 ± r is that of a span of the first step. -/
theorem exists_step_reaching_radius {r : Nat} (hr : 0 < r) :
    ∃ p ∈ circleSteps r (Midpoint.init r), p.1 = r ∨ p.2 = r := by
  have hfirst : ((Midpoint.init r).step.x, (Midpoint.init r).step.y) ∈ circleSteps r (Midpoint.init r) := by
    obtain ⟨k, rfl⟩ := Nat.exists_eq_add_one_of_ne_zero hr.ne'
    have hbelow : (Midpoint.init (k + 1)).x < (Midpoint.init (k + 1)).y := by simp only [Midpoint.init]; omega
    rw [circleSteps, if_pos hbelow]
    exact List.mem_cons_self
  refine ⟨_, hfirst, ?_⟩
  simp only [midpoint_step_x, midpoint_step_y, Midpoint.init]
  split <;> omega

/-- A one-column span of the filled circle with this colour holds the position. -/
def Covered (x0 y0 : Int) (r : Nat) (c : Colour) (px py : Int) : Prop :=
  ∃ (top : Int) (h : Nat), Request.fill px top 1 h c ∈ filledCircle x0 y0 r c ∧ top ≤ py ∧ py < top + h

/-- The central span covers the column of the centre (R156). -/
theorem covered_centre {x0 y0 py : Int} {r : Nat} (c : Colour) (hlow : y0 - r ≤ py) (hhigh : py ≤ y0 + r) :
    Covered x0 y0 r c x0 py :=
  ⟨y0 - r, 2 * r + 1, List.mem_cons_self, hlow, by push_cast; omega⟩

/-- The four spans of a step cover, in the columns at distance x on both sides of the centre, the rows up to
distance y, and the other way round (R156). -/
theorem covered_step {x0 y0 px py : Int} {r : Nat} (c : Colour) {p : Int × Int}
    (hp : p ∈ circleSteps r (Midpoint.init r))
    (hpos : (px = x0 + p.1 ∨ px = x0 - p.1) ∧ y0 - p.2 ≤ py ∧ py ≤ y0 + p.2 ∨
      (px = x0 + p.2 ∨ px = x0 - p.2) ∧ y0 - p.1 ≤ py ∧ py ≤ y0 + p.1) :
    Covered x0 y0 r c px py := by
  have hmem {q : Request} (hq : q ∈ spans x0 y0 c p) : q ∈ filledCircle x0 y0 r c :=
    List.mem_cons_of_mem _ (List.mem_flatMap.mpr ⟨p, hp, hq⟩)
  rcases hpos with ⟨hx, hlow, hhigh⟩ | ⟨hx, hlow, hhigh⟩
  · refine ⟨y0 - p.2, (2 * p.2 + 1).toNat, hmem ?_, hlow, by omega⟩
    rcases hx with rfl | rfl <;> simp [spans]
  · refine ⟨y0 - p.1, (2 * p.1 + 1).toNat, hmem ?_, hlow, by omega⟩
    rcases hx with rfl | rfl <;> simp [spans]

/-- The column at distance r on either side of the centre is covered at the centre's row: by the central span for
radius 0, else by a span of the first step. -/
theorem covered_side {x0 y0 px : Int} (r : Nat) (c : Colour) (hx : px = x0 + r ∨ px = x0 - r) :
    Covered x0 y0 r c px y0 := by
  rcases Nat.eq_zero_or_pos r with rfl | hr
  · obtain rfl : px = x0 := by omega
    exact covered_centre c (by omega) (by omega)
  · obtain ⟨p, hp, hreach⟩ := exists_step_reaching_radius hr
    have hnonneg := circleSteps_nonneg hp
    exact covered_step c hp (by omega)

/-- Settles O36: the cardinal points lie in the central span and in the columns at distance r, the eight points of
a step in its four spans. -/
theorem filledCircleCoversOutline : Obligations.FilledCircleCoversOutline := by
  intro x0 y0 px py r c hpixel
  rcases List.mem_append.mp hpixel with hcardinal | hstep
  · simp only [List.mem_cons, List.not_mem_nil, or_false, Request.pixel.injEq] at hcardinal
    rcases hcardinal with ⟨rfl, rfl, -⟩ | ⟨rfl, rfl, -⟩ | ⟨rfl, rfl, -⟩ | ⟨rfl, rfl, -⟩
    · exact covered_centre c (by omega) (by omega)
    · exact covered_centre c (by omega) (by omega)
    · exact covered_side r c (.inl rfl)
    · exact covered_side r c (.inr rfl)
  · obtain ⟨p, hp, hoctant⟩ := List.mem_flatMap.mp hstep
    have hnonneg := circleSteps_nonneg hp
    refine covered_step c hp ?_
    simp only [octants, List.mem_cons, List.not_mem_nil, or_false, Request.pixel.injEq] at hoctant
    omega

/-! ### The calls of the four commands -/

/-- The points of a circle's loop, each with the calls that are made for it. -/
theorem flatMap_circleSteps (r : Nat) (calls : Int × Int → List Request) :
    (circleSteps r (Midpoint.init r)).flatMap calls =
      ((List.range (circleLength r)).map fun n => midpointAt r (n + 1)).flatMap fun m => calls m.point := by
  rw [circleSteps_init le_rfl, List.flatMap_map, List.flatMap_map]

/-- Single pixels leave the chunk buffer alone. -/
theorem drawAll_pixels_chunk {rs : List Request} (hrs : ∀ r ∈ rs, ∃ x y c, r = .pixel x y c) (s : State) :
    (s.drawAll rs).chunk = s.chunk := by
  induction rs generalizing s with
  | nil => rfl
  | cons r rs ih =>
    obtain ⟨x, y, c, rfl⟩ := hrs r List.mem_cons_self
    have hfirst : (s.draw (.pixel x y c)).chunk = s.chunk := by rw [draw_eq]; rfl
    have hrest := ih (fun q hq => hrs q (List.mem_cons_of_mem _ hq)) (s.draw (.pixel x y c))
    exact hrest.trans hfirst

/-- An outline of a circle is made of single pixels. -/
theorem circle_pixels {x0 y0 : Int} {r : Nat} {c : Colour} {q : Request} (hq : q ∈ circle x0 y0 r c) :
    ∃ x y d, q = .pixel x y d := by
  rcases List.mem_append.mp hq with hcardinal | hstep
  · simp only [List.mem_cons, List.not_mem_nil, or_false] at hcardinal
    rcases hcardinal with rfl | rfl | rfl | rfl <;> exact ⟨_, _, _, rfl⟩
  · obtain ⟨p, -, hoctant⟩ := List.mem_flatMap.mp hstep
    simp only [octants, List.mem_cons, List.not_mem_nil, or_false] at hoctant
    rcases hoctant with rfl | rfl | rfl | rfl | rfl | rfl | rfl | rfl <;> exact ⟨_, _, _, rfl⟩

/-- A command that makes drawing calls emits them in order and changes at most the chunk buffer besides. -/
theorem exists_next_drawAll (s : State) (rs : List Request) :
    ∃ t, Host.Outcome.next (s.drawAll rs) = (.next t : Host.Outcome State Fault Refusal) ∧
      t = { s with pending := t.pending, chunk := t.chunk } ∧
      t.pending = s.pending ++ rs.flatMap (Request.txns s) :=
  ⟨_, rfl, drawAll_frame s rs, drawAll_pending s rs⟩

/-- Settles O33: the points of the loop are those after steps 1 to `circleLength r`, and the four commands are
drawing calls, those of an outline single pixels. -/
theorem primitivesEmitEachCallClipped : Obligations.PrimitivesEmitEachCallClipped := by
  refine ⟨fun x0 y0 r c => ?_, fun s x0 y0 x1 y1 w h r c => ⟨?_, ?_, ?_, ?_⟩⟩
  · refine ⟨circleLength r, fun n => circleLength_before, circleLength_end r, ?_, ?_⟩
    · rw [circle, flatMap_circleSteps]
      rfl
    · rw [filledCircle, flatMap_circleSteps]
      rfl
  · exact exists_next_drawAll s _
  · exact exists_next_drawAll s _
  · have hframe := drawAll_frame s (circle x0.toInt y0.toInt r.toNat c)
    rw [drawAll_pending, drawAll_pixels_chunk fun q hq => circle_pixels hq] at hframe
    exact congrArg Host.Outcome.next hframe
  · exact exists_next_drawAll s _

end Sys2Proof.Machine
end

section
/-! Settles O37, O39 and O40: bitmaps and glyph cells visited position by position. The positions of a box are
numbered in the order of its two loops, and each is drawn in the colour that its bit gives, or not at all. -/

namespace Sys2Proof.Machine

/-! ### The positions of a box -/

/-- A box of `outer` lines of `inner` positions, its positions numbered line by line. -/
theorem flatMap_positions {α : Type} (outer inner : Nat) (calls : Nat → Nat → List α) :
    ((List.range outer).flatMap fun j => (List.range inner).flatMap fun i => calls j i) =
      (List.range (inner * outer)).flatMap fun k => calls (k / inner) (k % inner) := by
  induction outer with
  | zero => rfl
  | succ outer ih =>
    have hlast : ((List.range inner).flatMap fun i => calls outer i) =
        ((List.range inner).map (inner * outer + ·)).flatMap fun k => calls (k / inner) (k % inner) := by
      rw [List.flatMap_map]
      refine List.flatMap_congr fun i hi => ?_
      have hi : i < inner := List.mem_range.mp hi
      rw [Nat.mul_add_div (by omega), Nat.mul_add_mod, Nat.div_eq_of_lt hi, Nat.mod_eq_of_lt hi, Nat.add_zero]
    rw [List.range_succ, List.flatMap_append, ih, List.flatMap_singleton, hlast, Nat.mul_succ, List.range_add,
      List.flatMap_append]

/-- The number of calls when every position has one, or only the chosen positions have. -/
theorem length_flatMap_ite {α β : Type} (l : List α) (chosen : α → Bool) (all : Bool) (a b : α → β) :
    (l.flatMap fun n => if chosen n = true then [a n] else if all = true then [b n] else []).length =
      if all = true then l.length else (l.filter chosen).length := by
  induction l with
  | nil => simp
  | cons n l ih =>
    rw [List.flatMap_cons, List.length_append, ih, List.filter_cons, List.length_cons]
    cases chosen n <;> cases all <;> simp [Nat.add_comm]

/-- The call for a position, if its bit has a colour (R187, R189, R199). -/
theorem map_inkOf (s : State) (bit : Bool) (call : Colour → Request) :
    (s.inkOf bit).toList.map call =
      if bit = true then [call s.regs.textFg] else if s.regs.useBg = true then [call s.regs.textBg] else [] := by
  unfold State.inkOf
  split
  · rfl
  · split <;> rfl

/-! ### Bitmaps -/

/-- The calls of a blit, position by position in row order (R204). -/
theorem blit_eq (s : State) (x y : Int) (addr w h : Nat) (fg : Colour) (bg : Option Colour) :
    s.blit x y addr w h fg bg = (List.range (w * h)).flatMap fun (k : Nat) =>
      (if s.blitBit addr w (k % w) (k / w) then some fg else bg).toList.map
        (.pixel (x + (k % w : Nat)) (y + (k / w : Nat))) := by
  rw [State.blit, flatMap_positions]

/-- A blit is made of single pixels. -/
theorem blit_pixels {s : State} {x y : Int} {addr w h : Nat} {fg : Colour} {bg : Option Colour} {q : Request}
    (hq : q ∈ s.blit x y addr w h fg bg) : ∃ px py c, q = .pixel px py c := by
  rw [blit_eq] at hq
  obtain ⟨k, -, hk⟩ := List.mem_flatMap.mp hq
  obtain ⟨c, -, rfl⟩ := List.mem_map.mp hk
  exact ⟨_, _, _, rfl⟩

/-- Single pixels only emit. -/
theorem drawAll_pixels {rs : List Request} (hrs : ∀ r ∈ rs, ∃ x y c, r = .pixel x y c) (s : State) :
    s.drawAll rs = s.emit (rs.flatMap (Request.txns s)) := by
  rw [drawAll_frame, drawAll_pending, drawAll_pixels_chunk hrs]
  rfl

/-- A blit emits, position by position in row order, the pixel of each position that has a colour. -/
theorem drawAll_blit (s : State) (x y : Int) (addr w h : Nat) (fg : Colour) (bg : Option Colour) :
    s.drawAll (s.blit x y addr w h fg bg) = s.emit ((List.range (w * h)).flatMap fun (k : Nat) =>
      (if s.blitBit addr w (k % w) (k / w) then some fg else bg).toList.flatMap fun c =>
        (Request.pixel (x + (k % w : Nat)) (y + (k / w : Nat)) c).txns s) := by
  rw [drawAll_pixels fun q hq => blit_pixels hq, blit_eq, List.flatMap_assoc]
  simp only [List.flatMap_map]

/-- Settles O37: with a background every position has a colour, without one those of a set bit. -/
theorem blitResult : Obligations.BlitResult := by
  intro x y addr w h c bg s
  have hopaque : exec (.drawBitmapBg x y addr w h c bg) s = .next
      (s.drawAll (s.blit x.toInt y.toInt addr.toNat w.toNat h.toNat c (some bg))) := rfl
  have htransparent : exec (.drawBitmap x y addr w h c) s = .next
      (s.drawAll (s.blit x.toInt y.toInt addr.toNat w.toNat h.toNat c none)) := rfl
  rw [hopaque, htransparent, drawAll_blit, drawAll_blit]
  constructor
  · simp only [← apply_ite some, Option.toList_some, List.flatMap_singleton]
  · refine congrArg Host.Outcome.next (congrArg s.emit (List.flatMap_congr fun k _ => ?_))
    split
    · exact List.flatMap_singleton ..
    · rfl

/-! ### Fixed font -/

/-- A fixed-font glyph at scale 1, position by position in column order (R187). -/
theorem fixedUnscaled_eq (s : State) (ch : Nat) :
    s.fixedUnscaled ch = (List.range 40).flatMap fun (n : Nat) =>
      (s.inkOf (s.fixedBit ch (n / 8) (n % 8))).toList.map
        (.pixel (s16 s.regs.cursorX + (n / 8 : Nat)) (s16 s.regs.cursorY + (n % 8 : Nat))) := by
  rw [State.fixedUnscaled, flatMap_positions]

/-- A fixed-font glyph at another scale, position by position in column order (R189). -/
theorem fixedScaled_eq (s : State) (ch : Nat) :
    s.fixedScaled ch = (List.range 40).flatMap fun (n : Nat) =>
      (s.inkOf (s.fixedBit ch (n / 8) (n % 8))).toList.map
        (.fill (s16 s.regs.cursorX + (n / 8 : Nat) * u8 s.regs.textSize)
          (s16 s.regs.cursorY + (n % 8 : Nat) * u8 s.regs.textSize) (u8 s.regs.textSize) (u8 s.regs.textSize)) := by
  rw [State.fixedScaled, flatMap_positions]

/-- Scale 1 is the value 1 of the register. -/
theorem u8_eq_one (v : Byte) : u8 v = 1 ↔ v = 1 := BitVec.toNat_inj (y := 1)

/-- Settles O39: each of the 40 positions has the call of its bit's colour, and the calls are counted. -/
theorem fixedGlyphPositions : Obligations.FixedGlyphPositions := by
  intro s ch call hfont hcall
  have hcalls : s.glyphRequests ch = (List.range 40).flatMap fun (n : Nat) =>
      if s.fixedBit ch (n / 8) (n % 8) = true then [call n s.regs.textFg]
      else if s.regs.useBg = true then [call n s.regs.textBg] else [] := by
    simp only [← map_inkOf, State.glyphRequests, if_pos hfont, u8_eq_one]
    by_cases hsize : s.regs.textSize = 1
    · have hpixel (n : Nat) := funext fun c => (hcall n c).trans (if_pos hsize)
      simp only [hpixel, if_pos hsize]
      exact fixedUnscaled_eq s ch
    · have hblock (n : Nat) := funext fun c => (hcall n c).trans (if_neg hsize)
      simp only [hblock, if_neg hsize]
      exact fixedScaled_eq s ch
  exact ⟨hcalls, by rw [hcalls, length_flatMap_ite, List.length_range]⟩

/-! ### Variable font at a scale other than 1 -/

/-- A scaled glyph of a variable font, position by position in row order: a position's number is the number of
its bit in the bitmap, rows not being padded (R66, R199). -/
theorem varScaled_eq (s : State) (f : Nat) (g : Glyph) :
    s.varScaled f g = (List.range (g.width * g.height)).flatMap fun (k : Nat) =>
      (s.inkOf (s.glyphBit f g k)).toList.map
        (.fill (s16 s.regs.cursorX + (g.xOffset + (k % g.width : Nat)) * u8 s.regs.textSize)
          (s16 s.regs.cursorY + (g.yOffset + (k / g.width : Nat)) * u8 s.regs.textSize)
          (u8 s.regs.textSize) (u8 s.regs.textSize)) := by
  rw [State.varScaled, flatMap_positions]
  simp only [Nat.div_add_mod']

/-- Settles O40: each position has the call of its bit's colour. -/
theorem scaledVariableGlyphPositions : Obligations.ScaledVariableGlyphPositions := by
  rintro s ch f g call hfont hsize rfl rfl hcall
  have hsize : u8 s.regs.textSize ≠ 1 := mt (u8_eq_one _).mp hsize
  have hblock (k : Nat) := funext (hcall k)
  simp only [← map_inkOf, hblock, State.glyphRequests, if_neg hfont, if_neg hsize]
  exact varScaled_eq s _ _

end Sys2Proof.Machine
end

section
/-! Settles O38: the decoder's runs of a row are its maximal runs of set bits, and they cover exactly the set bits. -/

namespace Sys2Proof.Machine

/-! ### The maximal runs of a row

A row is a predicate `bit` on its `w` columns. -/

/-- A run begins at a set bit that is the first of its row or stands right of a clear one. -/
def runBegins (bit : Nat → Bool) (x : Nat) : Bool := bit x && (x == 0 || !bit (x - 1))

/-- How many bits from column `x` on are set, up to the first clear one or the end of the row. -/
def runLength (bit : Nat → Bool) (w x : Nat) : Nat :=
  ((List.range (w - x)).takeWhile fun k => bit (x + k)).length

/-- The maximal runs that begin in the `n` columns from `x` on, as (start, length) in order. -/
def maximalRuns (bit : Nat → Bool) (w x n : Nat) : List (Nat × Nat) :=
  ((List.range' x n).filter (runBegins bit)).map fun y => (y, runLength bit w y)

/-- A run goes on for as long as the bits are set. -/
theorem runLength_eq (bit : Nat → Bool) (w x : Nat) :
    runLength bit w x = if x < w ∧ bit x = true then runLength bit w (x + 1) + 1 else 0 := by
  unfold runLength
  by_cases hx : x < w
  · have hn : w - x = w - (x + 1) + 1 := by omega
    have hshift : (fun k => bit (x + k)) ∘ Nat.succ = fun k => bit (x + 1 + k) :=
      funext fun k => congrArg bit (Nat.succ_add_eq_add_succ x k).symm
    rw [hn, List.range_succ_eq_map, List.takeWhile_cons, List.takeWhile_map, hshift]
    cases hbit : bit x <;> simp [hx]
  · simp [hx, Nat.sub_eq_zero_of_le (Nat.le_of_not_lt hx)]

/-- The decoder's loop from column `x` on, in the middle of a row: a run is open exactly if the bit to the left
is set; it goes on as far as the bits are set, and then come the runs that begin later (R197). -/
theorem runs_eq (bit : Nat → Bool) (w n : Nat) : ∀ x start run : Nat, x + n = w →
    decide (0 < run) = (x != 0 && bit (x - 1)) →
    runs ((List.range' x n).map bit) x start run =
      (if 0 < run then [(start, run + runLength bit w x)] else []) ++ maximalRuns bit w x n := by
  induction n with
  | zero =>
    rintro x start run rfl -
    simp [runs, maximalRuns, runLength_eq bit x x]
  | succ n ih =>
    intro x start run hw hopen
    have hbegins : runBegins bit x = (bit x && !decide (0 < run)) := by
      rw [hopen, runBegins]
      cases x <;> simp
    have hlength := runLength_eq bit w x
    rw [List.range'_succ, List.map_cons, maximalRuns, List.range'_succ, List.filter_cons, hbegins]
    cases hbit : bit x with
    | true =>
      rw [if_pos ⟨by omega, hbit⟩] at hlength
      have hlonger : run + 1 + runLength bit w (x + 1) = run + runLength bit w x := by omega
      rw [runs, ih (x + 1) _ (run + 1) (by omega) (by simp [hbit]), if_pos (Nat.succ_pos run), hlonger]
      by_cases hrun : run = 0
      · simp [hrun, maximalRuns]
      · simp [hrun, Nat.pos_of_ne_zero hrun, maximalRuns]
    | false =>
      rw [if_neg (by simp [hbit])] at hlength
      rw [runs, ih (x + 1) _ 0 (by omega) (by simp [hbit])]
      by_cases hrun : run = 0
      · simp [hrun, maximalRuns]
      · simp [Nat.pos_of_ne_zero hrun, hlength, maximalRuns]

/-- The decoder's runs of a row are its maximal runs. -/
theorem runs_row (bit : Nat → Bool) (w : Nat) :
    runs ((List.range w).map bit) 0 0 0 = maximalRuns bit w 0 w := by
  rw [List.range_eq_range', runs_eq bit w w 0 0 0 (Nat.zero_add w) rfl]
  rfl

/-! ### The maximal runs cover the set bits -/

/-- A run reaches a column if every bit up to there is set. -/
theorem lt_runLength_iff (bit : Nat → Bool) (w k : Nat) : ∀ x : Nat,
    k < runLength bit w x ↔ x + k < w ∧ ∀ i ≤ k, bit (x + i) = true := by
  induction k with
  | zero =>
    intro x
    rw [runLength_eq]
    split <;> simp_all
  | succ k ih =>
    intro x
    rw [runLength_eq]
    split
    · rename_i hset
      rw [Nat.succ_lt_succ_iff, ih]
      refine and_congr (by omega) ⟨fun hall i hi => ?_, fun hall i hi => ?_⟩
      · cases i with
        | zero => exact hset.2
        | succ i => exact Nat.succ_add_eq_add_succ x i ▸ hall i (by omega)
      · exact (Nat.succ_add_eq_add_succ x i).symm ▸ hall (i + 1) (by omega)
    · rename_i hclear
      exact iff_of_false (Nat.not_lt_zero _) fun ⟨hw, hall⟩ => hclear ⟨by omega, hall 0 (Nat.zero_le _)⟩

/-- A set bit lies in a maximal run: the bits left of it are set back to where the run begins. -/
theorem exists_run {bit : Nat → Bool} {w a : Nat} (ha : a < w) (hset : bit a = true) :
    ∃ x, runBegins bit x = true ∧ x ≤ a ∧ a < x + runLength bit w x := by
  by_cases hbegins : runBegins bit a = true
  · have hreach := (lt_runLength_iff bit w 0 a).mpr ⟨ha, by simpa using hset⟩
    exact ⟨a, hbegins, le_rfl, by omega⟩
  · obtain ⟨b, rfl⟩ : ∃ b, a = b + 1 := Nat.exists_eq_succ_of_ne_zero fun h => by simp_all [runBegins]
    have hleft : bit b = true := by simpa [runBegins, hset] using hbegins
    obtain ⟨x, hx, hle, hlt⟩ := exists_run (Nat.lt_of_succ_lt ha) hleft
    obtain ⟨-, hall⟩ := (lt_runLength_iff bit w (b - x) x).mp (by omega)
    have hreach := (lt_runLength_iff bit w (b + 1 - x) x).mpr ⟨by omega, fun i hi => ?_⟩
    · exact ⟨x, hx, by omega, by omega⟩
    · by_cases hi' : i ≤ b - x
      · exact hall i hi'
      · rwa [show x + i = b + 1 by omega]

/-- The columns that the maximal runs cover are those of the set bits. -/
theorem maximalRuns_cover (bit : Nat → Bool) (w a : Nat) :
    (∃ q ∈ maximalRuns bit w 0 w, q.1 ≤ a ∧ a < q.1 + q.2) ↔ a < w ∧ bit a = true := by
  constructor
  · rintro ⟨q, hq, hle, hlt⟩
    obtain ⟨x, -, rfl⟩ := List.mem_map.mp hq
    obtain ⟨hw, hall⟩ := (lt_runLength_iff bit w (a - x) x).mp (by omega)
    rw [← Nat.add_sub_of_le hle]
    exact ⟨hw, hall _ le_rfl⟩
  · rintro ⟨ha, hset⟩
    obtain ⟨x, hx, hle, hlt⟩ := exists_run ha hset
    refine ⟨_, List.mem_map.mpr ⟨x, List.mem_filter.mpr ⟨?_, hx⟩, rfl⟩, hle, hlt⟩
    exact List.mem_range'_1.mpr ⟨Nat.zero_le x, by omega⟩

/-! ### The spans of a glyph -/

/-- A row of a glyph's bitmap as a predicate on its columns (R66). -/
def State.glyphColumns (s : State) (f : Nat) (g : Glyph) (yy xx : Nat) : Bool := s.glyphBit f g (yy * g.width + xx)

/-- One fill for each maximal run of each row. -/
def State.varSpans (s : State) (f : Nat) (g : Glyph) : List Request :=
  (List.range g.height).flatMap fun (yy : Nat) =>
    (maximalRuns (s.glyphColumns f g yy) g.width 0 g.width).map fun q =>
      .fill (s16 s.regs.cursorX + g.xOffset + q.1) (s16 s.regs.cursorY + g.yOffset + yy) q.2 1 s.regs.textFg

/-- A glyph at scale 1 is its background box, then its spans (R196, R197). -/
theorem varUnscaled_eq (s : State) (f : Nat) (g : Glyph) :
    s.varUnscaled f g = s.varPrefill g ++ s.varSpans f g := by
  have hrow (yy : Nat) : runs (s.glyphRow f g yy) 0 0 0 =
      maximalRuns (s.glyphColumns f g yy) g.width 0 g.width := runs_row ..
  simp only [State.varUnscaled, State.varSpans, hrow]

/-- A fill whose origin is not left of or above the panel paints what of it lies on the panel. -/
theorem paints_fill_iff {width height : Nat} {x y : Int} {w h px py : Nat} {c d : Colour} (hx : 0 ≤ x)
    (hy : 0 ≤ y) :
    (Request.fill x y w h d).paints width height px py c ↔ c = d ∧ px < width ∧ py < height ∧
      (x ≤ px ∧ px < x + w) ∧ y ≤ py ∧ py < y + h := by
  simp only [Request.paints, clipResult width height x y w h, Option.ite_none_right_eq_some]
  constructor
  · rintro ⟨q, ⟨hkeep, heq⟩, hbox⟩
    cases heq
    obtain ⟨hleft, hright, htop, hbottom, rfl⟩ := hbox
    dsimp only at hleft hright htop hbottom
    exact ⟨rfl, by omega⟩
  · rintro ⟨rfl, hbox⟩
    refine ⟨_, ⟨by omega, rfl⟩, ?_⟩
    dsimp only
    exact ⟨by omega, by omega, by omega, by omega, rfl⟩

/-- The spans of a glyph that is not left of or above the panel paint the set bits on the panel (R198). -/
theorem paintsSome_varSpans (s : State) (f : Nat) (g : Glyph) (hx : 0 ≤ s16 s.regs.cursorX + g.xOffset)
    (hy : 0 ≤ s16 s.regs.cursorY + g.yOffset) (px py : Nat) (c : Colour) :
    paintsSome s.panelWidth s.panelHeight (s.varSpans f g) px py c ↔
      c = s.regs.textFg ∧ px < s.panelWidth ∧ py < s.panelHeight ∧
        ∃ xx < g.width, ∃ yy < g.height, s.glyphColumns f g yy xx = true ∧
          (px : Int) = s16 s.regs.cursorX + g.xOffset + xx ∧
          (py : Int) = s16 s.regs.cursorY + g.yOffset + yy := by
  constructor
  · rintro ⟨r, hr, hpaints⟩
    obtain ⟨yy, hyy, hrow⟩ := List.mem_flatMap.mp hr
    obtain ⟨q, hq, rfl⟩ := List.mem_map.mp hrow
    obtain ⟨hc, hpx, hpy, hcolumn, hline⟩ := (paints_fill_iff (by omega) (by omega)).mp hpaints
    obtain ⟨xx, hxx⟩ := Int.eq_ofNat_of_zero_le (a := px - (s16 s.regs.cursorX + g.xOffset)) (by omega)
    obtain ⟨hwidth, hset⟩ := (maximalRuns_cover _ _ xx).mp ⟨q, hq, by omega, by omega⟩
    exact ⟨hc, hpx, hpy, xx, hwidth, yy, List.mem_range.mp hyy, hset, by omega, by omega⟩
  · rintro ⟨hc, hpx, hpy, xx, hwidth, yy, hyy, hset, hcolumn, hline⟩
    obtain ⟨q, hq, hle, hlt⟩ := (maximalRuns_cover _ _ xx).mpr ⟨hwidth, hset⟩
    refine ⟨_, List.mem_flatMap.mpr ⟨yy, List.mem_range.mpr hyy, List.mem_map.mpr ⟨q, hq, rfl⟩⟩, ?_⟩
    exact (paints_fill_iff (by omega) (by omega)).mpr ⟨hc, hpx, hpy, by omega, by omega⟩

/-- Settles O38: the calls are the box and the spans, and the spans paint the set bits. -/
theorem runLengthEquivalence : Obligations.RunLengthEquivalence := by
  rintro s ch f g hfont hsize rfl rfl
  refine ⟨s.varSpans s.regs.activeFont.toNat (s.glyphOf s.regs.activeFont.toNat ch), ?_, ?_,
    paintsSome_varSpans s _ _⟩
  · rw [State.glyphRequests, if_neg hfont, if_pos ((u8_eq_one _).mpr hsize)]
    exact varUnscaled_eq s _ _
  · simp only [State.varSpans, maximalRuns, List.map_map, ← List.range_eq_range']
    rfl

end Sys2Proof.Machine
end

section
/-! Settles O42 and O54: which characters a font draws, and how a string is measured and anchored under a
variable font. -/

namespace Sys2Proof.Machine

/-! ### Characters outside the font -/

/-- With the fixed font every code is drawable (R192). -/
theorem drawable_fixed {s : State} (ch : Nat) (hfont : s.regs.activeFont = 0) : s.drawable ch = true := if_pos hfont

/-- With a variable font the codes from its first to its last are drawable (R192). -/
theorem drawable_variable {s : State} (ch : Nat) (hfont : s.regs.activeFont ≠ 0) : s.drawable ch = true ↔
    s.firstCode s.regs.activeFont.toNat ≤ ch ∧ ch ≤ s.lastCode s.regs.activeFont.toNat := by
  rw [State.drawable, if_neg hfont, Bool.and_eq_true, decide_eq_true_eq, decide_eq_true_eq]
  rfl

/-- A code without a glyph of its own has the space's in the fixed font (R186). -/
theorem fixedBit_space {ch : Nat} (s : State) (i j : Nat) (hch : ch < 32 ∨ 126 < ch) :
    s.fixedBit ch i j = s.fixedBit 32 i j := by
  have hcode : fixedCode ch = fixedCode 32 := if_neg (by omega)
  rw [State.fixedBit, hcode]
  rfl

/-- With the fixed font a code without a glyph of its own is drawn as the space. -/
theorem glyphRequests_space {s : State} {ch : Nat} (hfont : s.regs.activeFont = 0) (hch : ch < 32 ∨ 126 < ch) :
    s.glyphRequests ch = s.glyphRequests 32 := by
  simp only [State.glyphRequests, if_pos hfont, State.fixedUnscaled, State.fixedScaled, fixedBit_space s _ _ hch]

/-- With the fixed font every code advances the cursor alike (R193). -/
theorem advance_fixed {s : State} (ch : Nat) (hfont : s.regs.activeFont = 0) :
    s.advance ch = 6 * u8 s.regs.textSize := if_pos hfont

/-- A drawable character is drawn, and the cursor moves on (R235). -/
theorem putChar_drawable {s : State} {ch : Nat} (h : s.drawable ch = true) :
    s.putChar ch = (s.drawAll (s.glyphRequests ch)).advanceCursor ch := by
  rw [State.putChar, if_pos h, State.glyph, if_pos h]

/-- A character that is not drawable is skipped (R192, R235). -/
theorem putChar_skipped {s : State} {ch : Nat} (h : s.drawable ch = false) : s.putChar ch = s := by
  rw [State.putChar, h]
  rfl

/-- With the fixed font a code without a glyph of its own does what the space does. -/
theorem putChar_space {s : State} {ch : Nat} (hfont : s.regs.activeFont = 0) (hch : ch < 32 ∨ 126 < ch) :
    s.putChar ch = s.putChar 32 := by
  rw [putChar_drawable (drawable_fixed ch hfont), putChar_drawable (drawable_fixed 32 hfont),
    glyphRequests_space hfont hch]
  simp only [State.advanceCursor, advance_fixed _ ((drawAll_regs s _).symm ▸ hfont)]

/-- Settles O42: the fixed font puts the space in the place of a missing code, a variable font skips it. -/
theorem charactersOutsideTheFont : Obligations.CharactersOutsideTheFont := by
  refine fun s ch => ⟨drawable_fixed ch, drawable_variable ch, putChar_space, fun hfont hch => ?_⟩
  have hskipped : ¬s.drawable ch = true := by
    rw [drawable_variable ch hfont, State.firstCode, State.lastCode]
    omega
  exact putChar_skipped (Bool.eq_false_of_not_eq_true hskipped)

/-! ### The width of a string -/

/-- The advances of a string's drawable characters, added up one after another or all at once (R244). -/
theorem advanceSum_eq (s : State) (chs : List Nat) : s.advanceSum chs = s.measureWidth chs := by
  have hfrom (n : Nat) : chs.foldl (fun n ch => if s.drawable ch then n + s.advance ch else n) n =
      n + s.measureWidth chs := by
    unfold State.measureWidth
    induction chs generalizing n with
    | nil => rfl
    | cons ch chs ih =>
      rw [List.foldl_cons, ih, List.filter_cons]
      split
      · rw [List.map_cons, List.sum_cons, Nat.add_assoc]
      · rfl
  exact (hfrom 0).trans (Nat.zero_add _)

/-- The width that is measured is the sum of the advances. -/
theorem measure_width (s : State) (chs : List Nat) : (s.measure chs).width = s.advanceSum chs := by
  rw [advanceSum_eq, State.measure]
  split
  · rfl
  · split <;> rfl

/-! ### The vertical extent of a string -/

/-- The upper ends of some glyphs, from the baseline downwards. -/
def glyphTops (gs : List Glyph) : Set Int := {y | ∃ g ∈ gs, g.yOffset = y}

/-- The lower ends of some glyphs. -/
def glyphBottoms (gs : List Glyph) : Set Int := {y | ∃ g ∈ gs, g.yOffset + g.height = y}

/-- One glyph more has one upper end more. -/
theorem glyphTops_append (gs : List Glyph) (g : Glyph) :
    glyphTops (gs ++ [g]) = insert g.yOffset (glyphTops gs) := by
  ext y
  simp [glyphTops, or_and_right, exists_or, or_comm, eq_comm]

/-- One glyph more has one lower end more. -/
theorem glyphBottoms_append (gs : List Glyph) (g : Glyph) :
    glyphBottoms (gs ++ [g]) = insert (g.yOffset + g.height) (glyphBottoms gs) := by
  ext y
  simp [glyphBottoms, or_and_right, exists_or, or_comm, eq_comm]

/-- One glyph more widens the extent to its own two ends. -/
theorem verticalExtent_append {gs : List Glyph} {lo hi : Int} (g : Glyph) (h : verticalExtent gs = some (lo, hi)) :
    verticalExtent (gs ++ [g]) = some (min g.yOffset lo, max (g.yOffset + g.height) hi) := by
  rw [verticalExtent, List.foldl_append, ← verticalExtent, h, min_comm, max_comm]
  rfl

/-- The extent goes from the least upper end to the greatest lower end (R244, R246). -/
theorem exists_verticalExtent (gs : List Glyph) (hgs : gs ≠ []) : ∃ lo hi, verticalExtent gs = some (lo, hi) ∧
    IsLeast (glyphTops gs) lo ∧ IsGreatest (glyphBottoms gs) hi := by
  induction gs using List.reverseRecOn with
  | nil => exact absurd rfl hgs
  | append_singleton gs g ih =>
    by_cases hempty : gs = []
    · subst hempty
      refine ⟨g.yOffset, g.yOffset + g.height, rfl, ?_, ?_⟩ <;> simp [glyphTops, glyphBottoms]
    · obtain ⟨lo, hi, hextent, hlo, hhi⟩ := ih hempty
      refine ⟨_, _, verticalExtent_append g hextent, ?_, ?_⟩
      · rw [glyphTops_append]
        exact hlo.insert _
      · rw [glyphBottoms_append]
        exact hhi.insert _

/-- An extent is known by its two ends. -/
theorem verticalExtent_eq {gs : List Glyph} {lo hi : Int} (hlo : IsLeast (glyphTops gs) lo)
    (hhi : IsGreatest (glyphBottoms gs) hi) : verticalExtent gs = some (lo, hi) := by
  obtain ⟨g, hg, -⟩ := hlo.1
  obtain ⟨lo', hi', hextent, hlo', hhi'⟩ := exists_verticalExtent gs (List.ne_nil_of_mem hg)
  rw [hextent, hlo'.unique hlo, hhi'.unique hhi]

/-- The glyphs of a string are those of its drawable characters. -/
theorem mem_glyphsOf (s : State) (chs : List Nat) (g : Glyph) : g ∈ s.glyphsOf chs ↔
    ∃ ch ∈ chs, s.drawable ch = true ∧ s.glyphOf s.regs.activeFont.toNat ch = g := by
  simp only [State.glyphsOf, List.mem_map, List.mem_filter, and_assoc]
  rfl

/-- Without a drawable character everything measured is 0 (R247). -/
theorem measure_nothing {s : State} {chs : List Nat} (hfont : s.regs.activeFont ≠ 0)
    (h : ∀ ch ∈ chs, s.drawable ch = false) : s.measure chs = ⟨0, 0, 0⟩ := by
  have hnone : chs.filter s.drawable = [] := List.filter_eq_nil_iff.mpr fun ch hch => by simp [h ch hch]
  have hglyphs : s.glyphsOf chs = [] := by rw [State.glyphsOf, hnone, List.map_nil]
  have hwidth : s.measureWidth chs = 0 := by rw [State.measureWidth, hnone, List.map_nil, List.sum_nil]
  rw [State.measure, if_neg hfont, hglyphs, hwidth]
  rfl

/-- Under a variable font ascent and height come from the vertical extent (R244, R246). -/
theorem measure_of_extent {s : State} {chs : List Nat} {lo hi : Int} (hfont : s.regs.activeFont ≠ 0)
    (h : verticalExtent (s.glyphsOf chs) = some (lo, hi)) : s.measure chs =
      ⟨s.measureWidth chs, -lo * u8 s.regs.textSize, (hi - lo) * u8 s.regs.textSize⟩ := by
  rw [State.measure, if_neg hfont, h]

/-! ### The anchor -/

/-- The horizontal part of the anchor as one shift to the left (R250). -/
theorem anchorX_eq (d : Nat) (x : Int) (m : Metrics) : anchorX d x m =
    x - (if d % 3 = 0 then 0 else if d % 3 = 1 then m.width / 2 else m.width : Nat) := by
  unfold anchorX
  split
  · rename_i hclass; simp [hclass]
  · rename_i hclass; simp [hclass]
  · rename_i hleft hmiddle; rw [if_neg hleft, if_neg hmiddle]

/-- The vertical part of the anchor under a variable font, by class (R251). -/
theorem anchorYVariable_eq (d : Nat) (y : Int) (m : Metrics) : anchorYVariable d y m =
    if d / 3 = 0 then y + m.ascent else if d / 3 = 1 then y + m.ascent - m.height / 2 else y := by
  unfold anchorYVariable
  split
  · rename_i hclass; rw [if_pos hclass]
  · rename_i hclass; rw [if_neg (by omega), if_pos hclass]
  · rename_i htop hmiddle; rw [if_neg htop, if_neg hmiddle]

/-- Settles O54: the ends that the statement gives are those of the string's glyphs. -/
theorem variableFontMetricsAndAnchor : Obligations.VariableFontMetricsAndAnchor := by
  rintro s chs f hfont rfl
  refine ⟨fun ch _ => if_neg hfont, measure_width s chs, measure_nothing hfont, ?_, fun x y m => ?_⟩
  · rintro lo hi ⟨top, htop, htopdrawn, hlo⟩ hleast ⟨bottom, hbottom, hbottomdrawn, hhi⟩ hgreatest
    have hlo : IsLeast (glyphTops (s.glyphsOf chs)) lo := by
      refine ⟨⟨_, (mem_glyphsOf ..).mpr ⟨top, htop, htopdrawn, rfl⟩, hlo⟩, ?_⟩
      rintro y ⟨g, hg, rfl⟩
      obtain ⟨ch, hch, hdrawn, rfl⟩ := (mem_glyphsOf ..).mp hg
      exact hleast ch hch hdrawn
    have hhi : IsGreatest (glyphBottoms (s.glyphsOf chs)) hi := by
      refine ⟨⟨_, (mem_glyphsOf ..).mpr ⟨bottom, hbottom, hbottomdrawn, rfl⟩, hhi⟩, ?_⟩
      rintro y ⟨g, hg, rfl⟩
      obtain ⟨ch, hch, hdrawn, rfl⟩ := (mem_glyphsOf ..).mp hg
      exact hgreatest ch hch hdrawn
    rw [measure_of_extent hfont (verticalExtent_eq hlo hhi)]
    exact ⟨rfl, rfl⟩
  · rw [State.anchor, if_neg hfont, anchorX_eq, anchorYVariable_eq]
    rfl

end Sys2Proof.Machine
end

section
/-! Rules of the text layout that several statements rest on: a cursor register wraps what is written to it, what
the engine reads for a character does not depend on the cursor, and a character moves the cursor by its step. -/

namespace Sys2Proof.Machine

/-! ### The cursor registers wrap -/

/-- A register written with its own value keeps it. -/
@[simp] theorem wrapS16_s16 (v : Half) : wrapS16 (s16 v) = v := BitVec.ofInt_toInt

/-- A move from a wrapped place ends where the move from the place itself ends (spec/10_state.md R31). -/
@[simp] theorem wrapS16_add (a b : Int) : wrapS16 (s16 (wrapS16 a) + b) = wrapS16 (a + b) := by
  rw [wrapS16, wrapS16, s16, BitVec.ofInt_add, wrapS16, BitVec.ofInt_toInt, BitVec.ofInt_add]

/-- 16-bit operands are not changed when the cursor stores them (spec/44_text.md R225). -/
theorem setCursor_operands (r : Registers) (x y : Half) :
    r.setCursor (s16 x) (s16 y) = { r with cursorX := x, cursorY := y } := by
  rw [Registers.setCursor, wrapS16_s16, wrapS16_s16]

/-- The registers with the cursor where it is. -/
@[simp] theorem setCursor_self (r : Registers) : r.setCursor (s16 r.cursorX) (s16 r.cursorY) = r :=
  setCursor_operands r r.cursorX r.cursorY

/-- A move of the cursor right after it was placed is a placement further right. -/
theorem setCursor_move (r : Registers) (x y n : Int) :
    (r.setCursor x y).setCursor (s16 (r.setCursor x y).cursorX + n) (s16 (r.setCursor x y).cursorY) =
      r.setCursor (x + n) y := by
  simp [Registers.setCursor]

/-! ### What the engine reads for a character does not depend on the cursor -/

/-- A write of the cursor is within the cursor's frame. -/
theorem cursorFrame_setCursor (s : State) (x y : Int) : CursorFrame s { s with regs := s.regs.setCursor x y } :=
  ⟨rfl, List.prefix_rfl, .inl rfl⟩

section Reads

variable {s t : State} (h : CursorFrame s t)
include h

theorem CursorFrame.drawable : t.drawable = s.drawable := by rw [h.1]; rfl
theorem CursorFrame.advance : t.advance = s.advance := by rw [h.1]; rfl
theorem CursorFrame.advanceSum : t.advanceSum = s.advanceSum := by rw [h.1]; rfl
theorem CursorFrame.lineAdvance : t.lineAdvance = s.lineAdvance := by rw [h.1]; rfl
theorem CursorFrame.txns : Request.txns t = Request.txns s := by rw [h.1]; rfl
theorem CursorFrame.glyphRequests : t.glyphRequests = State.glyphRequests { s with regs := t.regs } := by
  rw [h.1]; rfl

end Reads

/-! ### Strings, character by character -/

/-- A string of one character more ends with that character (spec/20_memory.md R67). -/
theorem characters_succ (s : State) (addr len : Nat) :
    s.characters addr (len + 1) = s.characters addr len ++ [s.asset8 (addr + len)] := by
  rw [State.characters, List.range_succ, List.map_append]
  rfl

/-- A string has as many characters as its operand says. -/
@[simp] theorem characters_length (s : State) (addr len : Nat) : (s.characters addr len).length = len := by
  simp [State.characters]

/-- The loop of the string commands, its last character split off. -/
theorem putAll_append (s : State) (chs : List Nat) (ch : Nat) :
    s.putAll (chs ++ [ch]) = (s.putAll chs).putChar ch := List.foldl_append ..

/-- The width of a string, its last character split off: one that is not drawable has no width. -/
theorem advanceSum_append (s : State) (chs : List Nat) (ch : Nat) :
    s.advanceSum (chs ++ [ch]) = s.advanceSum chs + if s.drawable ch = true then s.advance ch else 0 := by
  rw [State.advanceSum, List.foldl_append, ← State.advanceSum]
  exact (apply_ite (s.advanceSum chs + ·) (s.drawable ch = true) (s.advance ch) 0).symm

/-! ### One character -/

/-- A drawable character in full: its glyph's transactions, and the cursor moved right (R235). -/
theorem putChar_eq {s : State} {ch : Nat} (h : s.drawable ch = true) :
    s.putChar ch = { s with
      pending := s.pending ++ (s.glyphRequests ch).flatMap (Request.txns s)
      chunk := (s.putChar ch).chunk
      regs := { s.regs with cursorX := wrapS16 (s16 s.regs.cursorX + s.advance ch) } } := by
  rw [putChar_drawable h, ← drawAll_pending]
  have hadvance := (drawAll_cursorFrame s (s.glyphRequests ch)).advance
  rw [State.advanceCursor, hadvance, drawAll_regs, Registers.setCursor, wrapS16_s16]
  conv_lhs => rw [drawAll_frame]

/-- What a character adds to what is still to be emitted. -/
theorem putChar_pending (s : State) (ch : Nat) : (s.putChar ch).pending = s.pending ++
    if s.drawable ch = true then (s.glyphRequests ch).flatMap (Request.txns s) else [] := by
  split
  next h => rw [putChar_eq h]
  next h => rw [putChar_skipped (Bool.eq_false_of_not_eq_true h), List.append_nil]

/-- The registers after a character: the cursor moves by the advance of a drawable one. -/
theorem putChar_regs (s : State) (ch : Nat) : (s.putChar ch).regs =
    s.regs.setCursor (s16 s.regs.cursorX + (if s.drawable ch = true then s.advance ch else 0 : Nat))
      (s16 s.regs.cursorY) := by
  split
  next h => rw [putChar_eq h, Registers.setCursor, wrapS16_s16]
  next h => rw [putChar_skipped (Bool.eq_false_of_not_eq_true h), Nat.cast_zero, add_zero, setCursor_self]

/-! ### The loop of the string commands -/

/-- The registers after a string: the cursor moves right by its width (R235, R253). -/
theorem putAll_regs (s : State) (chs : List Nat) : (s.putAll chs).regs =
    s.regs.setCursor (s16 s.regs.cursorX + s.advanceSum chs) (s16 s.regs.cursorY) := by
  induction chs using List.reverseRecOn with
  | nil => simp [State.putAll, State.advanceSum]
  | append_singleton chs ch ih =>
    have hframe := putAll_cursorFrame s chs
    rw [putAll_append, putChar_regs, hframe.drawable, hframe.advance, ih, setCursor_move, advanceSum_append,
      Nat.cast_add, add_assoc]

/-- The registers after a string that is drawn from (x, y). -/
theorem putAll_regs_from (s : State) (x y : Int) (chs : List Nat) :
    (State.putAll { s with regs := s.regs.setCursor x y } chs).regs = s.regs.setCursor (x + s.advanceSum chs) y := by
  rw [putAll_regs, (cursorFrame_setCursor s x y).advanceSum, setCursor_move]

/-- What a string that is drawn from (x, y) adds to what is still to be emitted: the glyphs of its drawable
characters, each moved right by the width of the string before it (R253). -/
theorem putAll_pending_from (s : State) (x y : Int) (addr len : Nat) :
    (State.putAll { s with regs := s.regs.setCursor x y } (s.characters addr len)).pending =
      s.pending ++ (List.range len).flatMap fun (i : Nat) =>
        if s.drawable (s.asset8 (addr + i)) = true then
          (State.glyphRequests { s with regs := s.regs.setCursor (x + s.advanceSum (s.characters addr i)) y }
            (s.asset8 (addr + i))).flatMap (Request.txns s)
        else [] := by
  induction len with
  | zero => exact (List.append_nil _).symm
  | succ len ih =>
    have hframe := cursorFrame_trans (cursorFrame_setCursor s x y)
      (putAll_cursorFrame _ (s.characters addr len))
    rw [characters_succ, putAll_append, putChar_pending, hframe.drawable, hframe.txns, hframe.glyphRequests,
      putAll_regs_from, ih, List.range_succ, List.flatMap_append, List.flatMap_singleton, List.append_assoc]

end Sys2Proof.Machine
end

section
/-! Settles O43 to O47: each state-setting command stores its operand and does nothing else. -/

namespace Sys2Proof.Machine

/-- Settles O43: the cursor stores its operands unwrapped. -/
theorem setCursorResult : Obligations.SetCursorResult := fun x y s =>
  congrArg Host.Outcome.next (congrArg (fun r => { s with regs := r }) (setCursor_operands s.regs x y))

/-- Settles O44: the two forms write the flag without comparing the colours. -/
theorem textColourResults : Obligations.TextColourResults := fun _ _ _ => ⟨rfl, rfl⟩

/-- The stored size is the larger of the operand and 1 (R228). -/
theorem clampedSize_eq (z : Byte) : (if z = 0 then 1 else z) = BitVec.ofNat 8 (max z.toNat 1) := by
  split
  next h => rw [h]; rfl
  next h =>
    have hpos : 1 ≤ z.toNat := Nat.pos_of_ne_zero (mt (BitVec.toNat_inj (y := 0)).mp h)
    rw [max_eq_left hpos, BitVec.ofNat_toNat, BitVec.setWidth_eq]

/-- Settles O45: the operand is clamped, and it is the low byte of its slot. -/
theorem textSizeIsClamped : Obligations.TextSizeIsClamped := by
  refine ⟨fun z s => ?_, fun high low => ?_⟩
  · rw [← clampedSize_eq]
    rfl
  · have hlow : (high ++ low).setWidth 8 = low := BitVec.setWidth_append_eq_right
    simp [decode, field8, hlow]

/-- Settles O46: neither command reads anything. -/
theorem datumAndFontAreStored : Obligations.DatumAndFontAreStored := fun _ _ _ => ⟨rfl, rfl⟩

/-- A write of a slot, slot by slot (R232). -/
theorem setSlot_eq (r : Registers) (k : Nat) (f : Half) : r.setSlot k f = { r with
    slot2 := if k = 2 then f else r.slot2
    slot3 := if k = 3 then f else r.slot3
    slot4 := if k = 4 then f else r.slot4
    slot5 := if k = 5 then f else r.slot5 } := by
  unfold Registers.setSlot
  split
  case h_5 h2 h3 h4 h5 => rw [if_neg h2, if_neg h3, if_neg h4, if_neg h5]
  all_goals rfl

/-- Settles O47: the index picks at most one of the four slots. -/
theorem fontSlotIsWritten : Obligations.FontSlotIsWritten := fun k f s =>
  congrArg Host.Outcome.next (congrArg (fun r => { s with regs := r }) (setSlot_eq s.regs k.toNat f))

end Sys2Proof.Machine
end

section
/-! Settles O48, O49 and O50: what PRINT and PRINTLN leave, character by character. -/

namespace Sys2Proof.Machine

/-- The loop of PRINT, its last character split off. -/
theorem printAll_append (s : State) (chs : List Nat) (ch : Nat) :
    s.printAll (chs ++ [ch]) = (s.printAll chs).printChar ch := List.foldl_append ..

/-- A string without a newline is printed as the string commands draw it (R236, R253). -/
theorem printAll_of_no_newline (s : State) {chs : List Nat} (h : 0x0A ∉ chs) : s.printAll chs = s.putAll chs :=
  List.foldl_ext _ _ s fun _ _ hch => if_neg (ne_of_mem_of_not_mem hch h)

/-- Settles O48: without a newline PRINT moves the cursor as the string commands do, by the width. -/
theorem printResult : Obligations.PrintResult := by
  intro addr len s
  obtain ⟨hothers, hpending, -⟩ := printAll_cursorFrame s (s.characters addr.toNat len.toNat)
  refine ⟨_, rfl, hothers, hpending, fun hnewline => ?_⟩
  have hregs := putAll_regs s (s.characters addr.toNat len.toNat)
  rw [← printAll_of_no_newline s hnewline] at hregs
  exact ⟨congrArg Registers.cursorX hregs, (congrArg Registers.cursorY hregs).trans (wrapS16_s16 _)⟩

/-- The line advance of the active font (R234). -/
theorem lineAdvance_eq (s : State) : s.lineAdvance =
    (if s.regs.activeFont = 0 then 8 else s.asset8 (s.regs.activeFont.toNat + 6)) * s.regs.textSize.toNat :=
  (ite_mul ..).symm

/-- A newline in full, its line advance read from any state that differs in the cursor, the chunk buffer and the
pending transactions alone. -/
theorem newline_eq_of_cursorFrame {s u : State} (h : CursorFrame s u) : u.newline = { u with
    regs := { u.regs with
      cursorX := 0
      cursorY := wrapS16 (u.regs.cursorY.toInt +
        (if s.regs.activeFont = 0 then 8 else s.asset8 (s.regs.activeFont.toNat + 6)) *
          s.regs.textSize.toNat) } } := by
  rw [State.newline, h.lineAdvance, lineAdvance_eq, Nat.cast_mul]
  rfl

/-- Settles O49: the loop over a string of one character more does that character last. -/
theorem printOneCharacter : Obligations.PrintOneCharacter := by
  refine fun addr s => ⟨rfl, fun n hn => ?_⟩
  have hprint (k : Nat) (hk : k < 256) : exec (.print addr (BitVec.ofNat 8 k)) s =
      .next (s.printAll (s.characters addr.toNat k)) :=
    congrArg (fun m => Host.Outcome.next (s.printAll (s.characters addr.toNat m))) (Nat.mod_eq_of_lt hk)
  have hframe := printAll_cursorFrame s (s.characters addr.toNat n)
  rw [hprint n (by omega), hprint (n + 1) (by omega), characters_succ, printAll_append]
  refine ⟨_, _, rfl, rfl, fun hnewline => ?_, fun hother hdrawn => ?_, fun hother hskipped => ?_⟩
  · exact (if_pos hnewline).trans (newline_eq_of_cursorFrame hframe)
  · rw [State.printChar, if_neg hother, ← hframe.txns, ← hframe.advance]
    exact putChar_eq (hframe.drawable ▸ hdrawn)
  · rw [State.printChar, if_neg hother]
    exact putChar_skipped (hframe.drawable ▸ hskipped)

/-- Settles O50: PRINTLN ends with a newline, and the code 0x0A is one. -/
theorem newlineResult : Obligations.NewlineResult := by
  refine ⟨fun addr len s => ⟨_, rfl, ?_⟩, fun addr s hchs => ?_⟩
  · exact congrArg Host.Outcome.next (newline_eq_of_cursorFrame (printAll_cursorFrame s _))
  · exact congrArg (fun chs => Host.Outcome.next (s.printAll chs)) hchs

end Sys2Proof.Machine
end

section
/-! Settles O51, O52, O53, O55 and O58: the string commands draw from the anchored origin, restore what they
change and return the width. -/

namespace Sys2Proof.Machine

/-! ### The width of a string -/

/-- One character advances the cursor by at most 255 pixels times 255 (R222). -/
theorem advance_le (s : State) (ch : Nat) : s.advance ch ≤ 255 * 255 := by
  have hsize : u8 s.regs.textSize ≤ 255 := Nat.le_of_lt_succ s.regs.textSize.isLt
  have hfield (a : Nat) : s.asset8 a ≤ 255 := Nat.le_of_lt_succ (Memory.read s.amem a).isLt
  unfold State.advance
  split
  · omega
  · exact Nat.mul_le_mul (hfield _) hsize

/-- A string is at most as wide as its length allows. -/
theorem advanceSum_le (s : State) (chs : List Nat) : s.advanceSum chs ≤ chs.length * (255 * 255) := by
  induction chs using List.reverseRecOn with
  | nil => exact Nat.zero_le _
  | append_singleton chs ch ih =>
    rw [advanceSum_append, List.length_append, List.length_singleton, Nat.succ_mul]
    refine Nat.add_le_add ih ?_
    split
    · exact advance_le s ch
    · exact Nat.zero_le _

/-- The width of a string operand fits `RESULT` (R222). -/
theorem advanceSum_characters_le (s t : State) (addr : Half) (len : Byte) :
    t.advanceSum (s.characters addr.toNat len.toNat) ≤ 16581375 := by
  have hwidth := advanceSum_le t (s.characters addr.toNat len.toNat)
  rw [characters_length] at hwidth
  have hlen := len.isLt
  omega

/-- Under the fixed font a string is as wide as its length says (R245). -/
theorem advanceSum_fixed {s : State} (hfont : s.regs.activeFont = 0) (chs : List Nat) :
    s.advanceSum chs = 6 * s.regs.textSize.toNat * chs.length := by
  induction chs using List.reverseRecOn with
  | nil => rfl
  | append_singleton chs ch ih =>
    rw [advanceSum_append, ih, if_pos (drawable_fixed ch hfont), advance_fixed ch hfont, List.length_append]
    rfl

/-- What is measured under the fixed font (R245). -/
theorem measure_fixed {s : State} (hfont : s.regs.activeFont = 0) (chs : List Nat) : s.measure chs =
    ⟨6 * s.regs.textSize.toNat * chs.length, 0, 8 * s.regs.textSize.toNat⟩ := by
  rw [State.measure, if_pos hfont, ← advanceSum_eq, advanceSum_fixed hfont]
  rfl

/-! ### The anchor -/

/-- The vertical part of the anchor under the fixed font: only the middle class shifts (R252). -/
theorem anchorYFixed_eq (sign : Int) (d : Nat) (y : Int) (m : Metrics) : anchorYFixed sign d y m =
    y + if d / 3 = 1 then sign * (m.height / 2) else 0 := by
  unfold anchorYFixed
  split
  next hclass => rw [if_neg (by omega), add_zero]
  next hclass => rw [if_pos hclass]
  next htop hmiddle => rw [if_neg hmiddle, add_zero]

/-- The horizontal shift of a class, for an even width, in half widths (R250). -/
theorem classShift_eq (d half : Nat) :
    (if d % 3 = 0 then 0 else if d % 3 = 1 then 2 * half / 2 else 2 * half) = d % 3 * half := by
  have hclass : d % 3 = 0 ∨ d % 3 = 1 ∨ d % 3 = 2 := by omega
  rcases hclass with h | h | h <;> simp [h]

/-- The anchored origin under the fixed font: x shifted left by as many half widths as the class says (R250, R252). -/
theorem anchor_fixed {s : State} (hfont : s.regs.activeFont = 0) (x y : Int) (chs : List Nat) :
    s.anchor x y (s.measure chs) =
      (x - (s.regs.datum.toNat % 3 : Nat) * (3 * s.regs.textSize.toNat * chs.length : Nat),
       y + if s.regs.datum.toNat / 3 = 1 then s.params.fixedMiddleSign * (4 * s.regs.textSize.toNat : Nat)
         else 0) := by
  have hwidth : 6 * s.regs.textSize.toNat * chs.length = 2 * (3 * s.regs.textSize.toNat * chs.length) := by ring
  have hheight : (8 * s.regs.textSize.toNat : Int) / 2 = (4 * s.regs.textSize.toNat : Nat) := by omega
  rw [State.anchor, if_pos hfont, measure_fixed hfont, anchorX_eq, anchorYFixed_eq, hheight, hwidth,
    classShift_eq, Nat.cast_mul]
  rfl

/-! ### The commands -/

/-- A selector beyond the slots selects as selector 1 does, the fixed font (R240). -/
theorem selectFont_fixed (s : State) {sel : Nat} (h : sel = 1 ∨ 5 < sel) :
    s.selectFont sel = { s with regs := s.regs.setFont 0 } := by
  rw [State.selectFont]
  obtain rfl | h := h
  · rfl
  · rw [if_neg (Nat.not_le.mpr h)]

/-- A string command in full but for the transactions: `RESULT` alone is written among the registers. -/
theorem drawAnchored_eq (s : State) (sel : Nat) (chs : List Nat) (x y : Int) :
    (s.selectFont sel).drawAnchored s.regs chs x y = { s with
      pending := ((s.selectFont sel).drawAnchored s.regs chs x y).pending
      chunk := ((s.selectFont sel).drawAnchored s.regs chs x y).chunk
      regs := s.regs.setResult (BitVec.ofNat 32 ((s.selectFont sel).advanceSum chs)) } := by
  have hframe := drawFrame_trans (drawFrame_selectFont s sel) (drawFrame_drawAnchored _ s.regs chs x y)
  conv_lhs => rw [hframe.others, drawAnchored_regs, measure_width]

/-- A string command only appends transactions. -/
theorem drawAnchored_prefix (s : State) (saved : Registers) (chs : List Nat) (x y : Int) :
    s.pending <+: (s.drawAnchored saved chs x y).pending := by
  obtain ⟨rs, hrs⟩ := (drawFrame_drawAnchored s saved chs x y).pending
  exact ⟨_, hrs.symm⟩

/-- The transactions of a string command: the string drawn from the anchored origin (R253). -/
theorem drawAnchored_pending (s : State) (saved : Registers) (addr len : Nat) (x y : Int) {o : Int × Int}
    (ho : o = s.anchor x y (s.measure (s.characters addr len))) :
    (s.drawAnchored saved (s.characters addr len) x y).pending =
      s.pending ++ (List.range len).flatMap fun (i : Nat) =>
        if s.drawable (s.asset8 (addr + i)) = true then
          (State.glyphRequests { s with regs := s.regs.setCursor (o.1 + s.advanceSum (s.characters addr i)) o.2 }
            (s.asset8 (addr + i))).flatMap (Request.txns s)
        else [] := by
  subst ho
  exact putAll_pending_from s _ _ addr len

/-- The string commands wrap the anchored origin into the cursor, so they wrap the anchor point (R31). -/
theorem drawAnchored_wrap (s : State) (saved : Registers) (chs : List Nat) (x y : Int) :
    s.drawAnchored saved chs (s16 (wrapS16 x)) y = s.drawAnchored saved chs x y := by
  have hcursor : s.regs.setCursor (s.anchor (s16 (wrapS16 x)) y (s.measure chs)).1
      (s.anchor (s16 (wrapS16 x)) y (s.measure chs)).2 =
      s.regs.setCursor (s.anchor x y (s.measure chs)).1 (s.anchor x y (s.measure chs)).2 := by
    simp only [State.anchor, anchorX_eq, sub_eq_add_neg, Registers.setCursor, wrapS16_add]
  simp only [State.drawAnchored, hcursor]

/-! ### The statements -/

/-- Settles O51: both commands are `drawAnchored` under the selected font. -/
theorem stringCommandsRestoreAndReturnWidth : Obligations.StringCommandsRestoreAndReturnWidth := by
  rintro addr len x y sel s i (rfl | rfl)
  all_goals
    exact ⟨advanceSum_characters_le s _ addr len, _, rfl, drawAnchored_eq s _ _ _ _,
      drawAnchored_prefix (s.selectFont _) _ _ _ _⟩

/-- Settles O52: every character of the fixed font has the same advance, and the font has no ascent. -/
theorem fixedFontMetrics : Obligations.FixedFontMetrics := by
  intro addr len x y s
  have hfont : (s.selectFont 1).regs.activeFont = 0 := rfl
  have hmeasure := measure_fixed hfont (s.characters addr.toNat len.toNat)
  rw [characters_length] at hmeasure
  refine ⟨fun ch => advance_fixed ch hfont, congrArg Metrics.width hmeasure, congrArg Metrics.height hmeasure,
    ⟨_, rfl, ?_⟩, fun ax ay m ascent => ?_⟩
  · have hwidth := advanceSum_characters_le s (s.selectFont 1) addr len
    rw [← measure_width, hmeasure] at hwidth
    have hregs := drawAnchored_regs s 1 (s.characters addr.toNat len.toNat) x.toInt y.toInt
    rw [hmeasure] at hregs
    exact (congrArg (·.result.toNat) hregs).trans (Nat.mod_eq_of_lt (hwidth.trans_lt (by decide)))
  · rw [State.anchor, State.anchor, if_pos hfont, if_pos hfont]
    rfl

/-- Settles O53: the loop starts at the anchored origin; under the fixed font every character before the i-th moves
the cursor by the same pitch. -/
theorem drawStringPlacesItsGlyphs : Obligations.DrawStringPlacesItsGlyphs := by
  constructor
  · rintro addr len x y sel s f o rfl ho
    exact ⟨_, rfl, drawAnchored_pending (s.selectFont sel.toNat) s.regs addr.toNat len.toNat x.toInt y.toInt ho⟩
  · rintro addr len x y s ox oy hx hy
    have hfont : (s.selectFont 1).regs.activeFont = 0 := rfl
    have hanchor := anchor_fixed hfont x.toInt y.toInt (s.characters addr.toNat len.toNat)
    rw [characters_length] at hanchor
    refine ⟨_, rfl, (drawAnchored_pending (s.selectFont 1) s.regs addr.toNat len.toNat x.toInt y.toInt
      (o := (ox, oy)) ?_).trans ?_⟩
    · rw [hx, hy]; exact hanchor.symm
    · refine congrArg (s.pending ++ ·) (List.flatMap_congr fun i _ => ?_)
      have hpitch : ((6 * s.regs.textSize.toNat * i : Nat) : Int) = i * (6 * s.regs.textSize.toNat : Nat) := by
        rw [mul_comm, Nat.cast_mul]
      rw [if_pos (drawable_fixed _ hfont), advanceSum_fixed hfont, characters_length, ← hpitch]
      rfl

/-- Settles O55: the shifted x is wrapped in the operand, the anchored origin in the cursor register. -/
theorem centreStringForwards : Obligations.CentreStringForwards := by
  intro addr len x y sel s
  rw [← measure_width, Int.natCast_div]
  exact congrArg Host.Outcome.next (drawAnchored_wrap _ _ _ _ _).symm

/-- Settles O58: the anchor shifts x left by the width (R250, R251), and the string moves the cursor right by it. -/
theorem datumEightEndsAtTheAnchor : Obligations.DatumEightEndsAtTheAnchor := by
  intro s chs x y o hfont hdatum ho
  have horigin : o = (x.toInt - s.advanceSum chs, y.toInt) := by
    rw [ho, State.anchor, if_neg hfont, hdatum, ← measure_width]
    rfl
  rw [putAll_regs_from, horigin, sub_add_cancel]
  exact Prod.ext (wrapS16_s16 x) (wrapS16_s16 y)

end Sys2Proof.Machine
end

section
/-! Settles O56 and O57: the selectors and the datums beyond the named ones. -/

namespace Sys2Proof.Machine

/-- Settles O56: a selector beyond the slots leaves the state to the commands that selector 1 leaves. -/
theorem fontSelectionPolicy : Obligations.FontSelectionPolicy := by
  refine fun s => ⟨rfl, rfl, rfl, rfl, rfl, rfl, fun addr len x y sel hsel => ?_⟩
  have hselect : s.selectFont (u16 sel) = s.selectFont (u16 1) :=
    (selectFont_fixed s (.inr hsel)).trans (selectFont_fixed s (.inl rfl)).symm
  simp only [exec, execDrawString, execDrawCentreString, hselect, and_self]

/-- The anchor depends on the datum through its two classes alone, and every vertical class above 1 is the bottom
class (R249). -/
theorem anchor_congr_datum {d e : Byte} (hh : d.toNat % 3 = e.toNat % 3) (hd : 1 < d.toNat / 3)
    (he : 1 < e.toNat / 3) (s : State) (x y : Int) (m : Metrics) :
    { s with regs := { s.regs with datum := d } }.anchor x y m =
      { s with regs := { s.regs with datum := e } }.anchor x y m := by
  have hd0 : d.toNat / 3 ≠ 0 := by omega
  have hd1 : d.toNat / 3 ≠ 1 := by omega
  have he0 : e.toNat / 3 ≠ 0 := by omega
  have he1 : e.toNat / 3 ≠ 1 := by omega
  simp only [State.anchor, u8, anchorX_eq, anchorYFixed_eq, anchorYVariable_eq, hh, if_neg hd0, if_neg hd1,
    if_neg he0, if_neg he1]

/-- Settles O57: the datum 6 + d mod 3 has the horizontal class of d and the bottom class. -/
theorem datumAboveEightActsAsBottom : Obligations.DatumAboveEightActsAsBottom := by
  intro s d x y m hd
  have hbottom : (BitVec.ofNat 8 (6 + d.toNat % 3)).toNat = 6 + d.toNat % 3 := Nat.mod_eq_of_lt (by omega)
  exact anchor_congr_datum (by omega) (by omega) (by omega) s x y m

end Sys2Proof.Machine
end

section
/-! Settles O23, O25 and O26: NOP, and the packing of three channels into one colour. -/

namespace Sys2Proof.Machine

/-- Settles O23. -/
theorem nopChangesNothing : Obligations.NopChangesNothing := fun _ => rfl

/-- Two vectors side by side as a number: the low one leaves the lowest bits free, so that nothing carries. -/
theorem toNat_append_eq_add {m n : Nat} (high : BitVec m) (low : BitVec n) :
    (high ++ low).toNat = high.toNat * 2 ^ n + low.toNat := by
  rw [BitVec.toNat_append, ← Nat.shiftLeft_add_eq_or_of_lt low.isLt, Nat.shiftLeft_eq]

/-- The bits from `start` up to the top are the quotient that truncation leaves (R272). -/
theorem toNat_highBits {w start len : Nat} (v : BitVec w) (htop : w = start + len) :
    (v.extractLsb' start len).toNat = v.toNat / 2 ^ start := by
  have hlt : v.toNat / 2 ^ start < 2 ^ len :=
    Nat.div_lt_of_lt_mul (by rw [← pow_add, ← htop]; exact v.isLt)
  rw [BitVec.extractLsb'_toNat, Nat.shiftRight_eq_div_pow, Nat.mod_eq_of_lt hlt]

/-- A packed colour as a number (R272). -/
theorem packColour_toNat (r g b : Byte) :
    (packColour r g b).toNat = r.toNat / 8 * 2048 + g.toNat / 4 * 32 + b.toNat / 8 := by
  have hr : (r.extractLsb' 3 5).toNat = r.toNat / 8 := toNat_highBits r rfl
  have hg : (g.extractLsb' 2 6).toNat = g.toNat / 4 := toNat_highBits g rfl
  have hb : (b.extractLsb' 3 5).toNat = b.toNat / 8 := toNat_highBits b rfl
  rw [packColour, toNat_append_eq_add, toNat_append_eq_add, hr, hg, hb]
  omega

/-- The three fields of a colour, each in the high bits of its channel, are packed side by side again (R273). -/
theorem packColour_fields (c : Colour) :
    packColour (c.extractLsb' 11 5 ++ 0#3) (c.extractLsb' 5 6 ++ 0#2) (c.extractLsb' 0 5 ++ 0#3) = c :=
  calc packColour (c.extractLsb' 11 5 ++ 0#3) (c.extractLsb' 5 6 ++ 0#2) (c.extractLsb' 0 5 ++ 0#3)
    _ = c.extractLsb' 11 5 ++ c.extractLsb' 5 6 ++ c.extractLsb' 0 5 := by
      simp only [packColour, BitVec.extractLsb'_append_eq_left]
    _ = c.extractLsb' 5 11 ++ c.extractLsb' 0 5 :=
      congrArg (· ++ c.extractLsb' 0 5) (BitVec.extractLsb'_append_extractLsb'_eq_extractLsb' rfl)
    _ = c.extractLsb' 0 16 := BitVec.extractLsb'_append_extractLsb'_eq_extractLsb' rfl
    _ = c := BitVec.extractLsb'_eq_self

/-- PACK_RGB of channels whose packed colour is `c` (R272). -/
theorem exec_packRgb_of_packColour {r g b : Byte} {c : Colour} (h : packColour r g b = c) (s : State) :
    exec (.packRgb r g b) s = .next { s with regs := { s.regs with result := c.setWidth 32 } } := by
  rw [← h]
  rfl

/-- Settles O25: `RESULT` takes the packed colour, by its number. -/
theorem packRgbResult : Obligations.PackRgbResult := by
  intro r g b s
  rw [← packColour_toNat, BitVec.ofNat_toNat]
  exact exec_packRgb_of_packColour rfl s

/-- Settles O26: the fields of a colour are packed to that colour. -/
theorem repackingIsIdempotent : Obligations.RepackingIsIdempotent := fun c =>
  exec_packRgb_of_packColour (packColour_fields c)

end Sys2Proof.Machine
end

section
/-! Settles O15: no command and no step stops, and a command leaves memory and what was pending as they were. -/

namespace Sys2Proof.Machine

/-- A word is accepted, of a command or a reserved one: neither stops the machine. -/
theorem acceptCommand_next (s : State) (cw : CommandWord) : ∃ t, s.acceptCommand cw = .next t := by
  unfold State.acceptCommand
  cases decode cw with
  | error e => exact ⟨_, rfl⟩
  | ok i =>
    obtain ⟨t, hexec⟩ := exec_next i (s.takeCommand (some i))
    exact ⟨t.settleBusy, congrArg settle hexec⟩

/-- Every step has a next state: the engine accepts a word, or one event happens. -/
theorem step_next (s : State) : ∃ t, step s = .next t := by
  by_cases hwaiting : s.busy = true ∨ s.port = none
  · exact ⟨_, step_waiting s hwaiting⟩
  · obtain ⟨hbusy, hport⟩ := not_or.mp hwaiting
    obtain ⟨cw, hport⟩ := Option.ne_none_iff_exists'.mp hport
    rw [step_ready s cw (Bool.eq_false_of_not_eq_true hbusy) hport]
    exact acceptCommand_next s.sampled (s.sampledWord cw)

/-- Settles O15: the frame of every command has no memory in it. -/
theorem everyCommandCompletes : Obligations.EveryCommandCompletes := by
  refine ⟨fun i s => ?_, step_next⟩
  obtain ⟨t, hexec⟩ := exec_next i s
  have hframe := exec_commandFrame hexec
  obtain ⟨ts, hts, -⟩ := hframe.pending
  have hamem : t.amem = s.amem := by rw [hframe.others]
  exact ⟨t, hexec, hframe.others, ⟨ts, hts.symm⟩, fun a => by rw [hamem]⟩

end Sys2Proof.Machine
end

section
/-! Settles O10: a busy engine whose adapter accepts nothing stays busy, with the same transaction offered. -/

namespace Sys2Proof.Machine

/-! ### The events but an acceptance and reset -/

/-- From `s` to `t` `BUSY` and the bus stream stay, and so does the transaction that is offered; no event comes
that was not to come. -/
structure KeepsOffering (s t : State) : Prop where
  busy : t.busy = s.busy
  bus : t.bus = s.bus
  offered : s.pending ≠ [] → t.pending.head? = s.pending.head?
  inputs : t.inputs ⊆ s.inputs

/-- Another state with the same `BUSY`, the same streams and the same coming events. -/
theorem keepsOffering_of_eq {s t : State} (hbusy : t.busy = s.busy) (hbus : t.bus = s.bus)
    (hpending : t.pending = s.pending) (hinputs : t.inputs = s.inputs) : KeepsOffering s t :=
  ⟨hbusy, hbus, fun _ => by rw [hpending], by rw [hinputs]; exact List.Subset.refl _⟩

/-- A write of asset memory keeps the transaction that is offered, even when it tears the running command. -/
theorem keepsOffering_writeAsset (s : State) (a : Half) (b : Byte) : KeepsOffering s (s.writeAsset a b) := by
  rcases writeAsset_cases s a b with heq | ⟨i, -, -, -, heq⟩
  · rw [heq]; exact keepsOffering_of_eq rfl rfl rfl rfl
  · obtain ⟨kept, rs, buf, htear, -, hhead, -⟩ := tear_eq { s with amem := Memory.write s.amem a b } i
    rw [heq, htear]
    exact ⟨rfl, rfl, hhead, List.Subset.refl _⟩

/-- Only an acceptance and reset touch `BUSY`, the bus stream or the transaction that is offered. -/
theorem keepsOffering_handle (s : State) {e : Input} (haccept : e ≠ .adapterAccepts) (hreset : e ≠ .reset) :
    KeepsOffering s (s.handle e) := by
  cases e with
  | present | changeWord | readRegister => exact keepsOffering_of_eq rfl rfl rfl rfl
  | assetWrite a b => exact keepsOffering_writeAsset s a b
  | adapterTransfers =>
    change KeepsOffering s s.transferByte
    rw [transferByte_frame]
    exact keepsOffering_of_eq rfl rfl rfl rfl
  | adapterAccepts => exact absurd rfl haccept
  | reset => exact absurd rfl hreset

/-- Of the other events only a write of asset memory changes what is still to be emitted. -/
theorem handle_pending (s : State) {e : Input} (hwrite : ∀ a b, e ≠ .assetWrite a b)
    (haccept : e ≠ .adapterAccepts) (hreset : e ≠ .reset) : (s.handle e).pending = s.pending := by
  cases e with
  | present | changeWord | readRegister => rfl
  | assetWrite a b => exact absurd rfl (hwrite a b)
  | adapterTransfers => exact (congrArg State.pending (transferByte_frame s) :)
  | adapterAccepts => exact absurd rfl haccept
  | reset => exact absurd rfl hreset

/-! ### A busy engine's steps -/

/-- The step of a busy engine: nothing is to be done, or one event happens. -/
theorem step_busy_cases {s t : State} (hbusy : s.busy = true) (hstep : step s = .next t) :
    (s.inputs = [] ∧ t = s) ∨ ∃ e es, s.inputs = e :: es ∧ t = State.handle { s with inputs := es } e := by
  cases hinputs : s.inputs with
  | nil =>
    rw [step_waiting s (.inl hbusy), State.nextEvent, hinputs] at hstep
    cases hstep
    exact .inl ⟨rfl, rfl⟩
  | cons e es =>
    rw [step_event (.inl hbusy) hinputs] at hstep
    cases hstep
    exact .inr ⟨e, es, rfl, rfl⟩

/-- From `s` to `t` the engine waits for its adapter: the offered transaction stays, and all that is pending
does if the host is not to write asset memory. -/
structure Waits (s t : State) : Prop extends KeepsOffering s t where
  pending : (∀ a b, .assetWrite a b ∉ s.inputs) → t.pending = s.pending

/-- Nothing done is waiting. -/
theorem waits_refl (s : State) : Waits s s := ⟨keepsOffering_of_eq rfl rfl rfl rfl, fun _ => rfl⟩

/-- Waiting goes on: the offered transaction stays offered, and no write of asset memory comes in between. -/
theorem waits_trans {s t u : State} (h : Waits s t) (k : Waits t u) : Waits s u where
  busy := k.busy.trans h.busy
  bus := k.bus.trans h.bus
  offered hne := by
    have hhead := h.offered hne
    have hstill : t.pending ≠ [] := by
      rwa [ne_eq, ← List.head?_eq_none_iff, hhead, List.head?_eq_none_iff]
    exact (k.offered hstill).trans hhead
  inputs := List.Subset.trans k.inputs h.inputs
  pending hwrite := (k.pending fun a b hmem => hwrite a b (h.inputs hmem)).trans (h.pending hwrite)

/-- A busy engine waits when no acceptance and no reset is to come. -/
theorem waits_step {s t : State} (hbusy : s.busy = true)
    (hquiet : ∀ e ∈ s.inputs, e ≠ .adapterAccepts ∧ e ≠ .reset) (hstep : step s = .next t) : Waits s t := by
  rcases step_busy_cases hbusy hstep with ⟨-, rfl⟩ | ⟨e, es, hinputs, rfl⟩
  · exact waits_refl t
  · obtain ⟨haccept, hreset⟩ := hquiet e (by simp [hinputs])
    obtain ⟨hstays, hbus, hoffered, hlater⟩ := keepsOffering_handle { s with inputs := es } haccept hreset
    have hcoming : es ⊆ s.inputs := hinputs ▸ List.subset_cons_self e es
    exact ⟨⟨hstays, hbus, hoffered, List.Subset.trans hlater hcoming⟩, fun hwrite =>
      handle_pending _ (fun a b he => hwrite a b (by simp [hinputs, he])) haccept hreset⟩

/-- A busy engine waits for any number of steps when no acceptance and no reset is to come. -/
theorem waits_run (n : Nat) : ∀ s t : State, s.busy = true →
    (∀ e ∈ s.inputs, e ≠ .adapterAccepts ∧ e ≠ .reset) → core.run n s = .next t → Waits s t := by
  induction n with
  | zero =>
    intro s t _ _ hrun
    cases hrun
    exact waits_refl s
  | succ n ih =>
    intro s t hbusy hquiet hrun
    obtain ⟨u, hstep⟩ := step_next s
    have hwaits := waits_step hbusy hquiet hstep
    rw [run_succ n hstep] at hrun
    exact waits_trans hwaits
      (ih u t (hwaits.busy.trans hbusy) (fun e he => hquiet e (hwaits.inputs he)) hrun)

/-- Only an acceptance or reset ends a command. -/
theorem step_clears_busy {s t : State} (hbusy : s.busy = true) (hstep : step s = .next t)
    (hidle : t.busy = false) :
    s.inputs.head? = some .adapterAccepts ∨ s.inputs.head? = some .reset := by
  rcases step_busy_cases hbusy hstep with ⟨-, rfl⟩ | ⟨e, es, hinputs, rfl⟩
  · rw [hbusy] at hidle
    exact absurd hidle Bool.noConfusion
  · rw [hinputs, List.head?_cons, Option.some_inj, Option.some_inj]
    by_contra hother
    obtain ⟨haccept, hreset⟩ := not_or.mp hother
    have hstays := (keepsOffering_handle { s with inputs := es } haccept hreset).busy
    rw [hidle] at hstays
    exact absurd (hstays.trans hbusy) Bool.noConfusion

/-- Settles O10: the engine waits step after step. -/
theorem stuckWithoutAcceptances : Obligations.StuckWithoutAcceptances := by
  refine ⟨fun n s t hbusy hquiet hrun => ?_, fun s t => step_clears_busy⟩
  have hwaits := waits_run n s t hbusy hquiet hrun
  exact ⟨hwaits.busy.trans hbusy, hwaits.bus, hwaits.offered, hwaits.pending⟩

end Sys2Proof.Machine
end

section
/-! Settles O11: what reset loads and leaves, and the word that a ready engine takes before a reset. -/

namespace Sys2Proof.Machine

/-- The chunk buffer keeps its size through a reset (spec/10_state.md R37). -/
theorem chunkAfterReset_length (p : Params) (n : Nat) : (chunkAfterReset p n).length = p.chunkBytes := by
  simp [chunkAfterReset, Params.chunkBytes]

/-- Accepting a word takes it from the port and lets no event happen, whether its opcode is assigned or
reserved. -/
theorem acceptCommand_port_inputs {s t : State} {cw : CommandWord} (haccept : s.acceptCommand cw = .next t) :
    t.port = none ∧ t.inputs = s.inputs := by
  unfold State.acceptCommand at haccept
  cases hdecode : decode cw with
  | error e =>
    rw [hdecode] at haccept
    cases haccept
    exact ⟨rfl, rfl⟩
  | ok i =>
    obtain ⟨u, hexec⟩ := exec_next i (s.takeCommand (some i))
    simp only [hdecode, hexec, settle] at haccept
    cases haccept
    rw [settleBusy_port, settleBusy_inputs, (exec_commandFrame hexec).others]
    exact ⟨rfl, rfl⟩

/-- Settles O11: the engine that waits handles the reset, and the ready one accepts the word on its port. -/
theorem resetLoadsTheResetValues : Obligations.ResetLoadsTheResetValues := by
  refine ⟨fun s es hinputs hwaiting => ?_, fun s cw hidle hport hheld => ?_⟩
  · exact ⟨State.applyReset { s with inputs := es }, step_event hwaiting hinputs,
      rfl, rfl, rfl, rfl, rfl, rfl, chunkAfterReset_length s.params (s.free + 1), rfl, rfl, rfl, rfl, rfl⟩
  · obtain ⟨t, haccept⟩ := acceptCommand_next s cw
    exact ⟨t, (step_ready_held s cw hidle hport hheld).trans haccept, acceptCommand_port_inputs haccept⟩

end Sys2Proof.Machine
end
